-- ==== Sys2Proof/Word.lean ====
section
/-! DEFINITION. The word types of the encoder (spec/10_state.md, spec/20_memory.md). -/

namespace Sys2Proof

/-- One byte: a character of the output text, one cell of OUT (R48, R70). -/
abbrev Byte := BitVec 8

/-- The operand word of CONVERT, DOC's Raw Bit Pattern (R14, R60). -/
abbrev Word := BitVec 32

/-- One entry of the Power-of-Ten Ceiling Table (R41). -/
abbrev Ceiling := BitVec 64

end Sys2Proof
end

