-- ==== Sys2Proof/Syntax.lean ====
section
/-! DEFINITION. The abstract syntax: one constructor per row of spec/opcode_table.json (R77), and the phases (R72). -/

namespace Sys2Proof

/-- The 23 phases of the state machine, the legal values of PHASE (R24, R72). -/
inductive Phase where
  | idle | decode | signw | zero | normal | subnormal | fastint
  | bounds | expk | shifth | lut | mull | mulc | mulr | interval | shorter | direct | tie
  | digits | layout | emit | done | fault
  deriving DecidableEq, Repr

/-- The rows of the opcode table: the five operand classes of CONVERT (R62) with the fields of R60 that the class
leaves open, the 23 phases (R72), the 14 output characters (R70). -/
inductive Instr where
  /-- CONVERT.INFNAN: exponent field 255. -/
  | convertInfnan (sign : BitVec 1) (mf : BitVec 23)
  /-- CONVERT.ZERO: all bits but the sign are 0. -/
  | convertZero (sign : BitVec 1)
  /-- CONVERT.SUBNORMAL: exponent field 0, mantissa field not 0. -/
  | convertSubnormal (sign : BitVec 1) (mf : BitVec 23)
  /-- CONVERT.NORMAL_FASTINT: an integer 1..2^24-1. -/
  | convertNormalFastint (sign : BitVec 1) (ef : BitVec 8) (mf : BitVec 23)
  /-- CONVERT.NORMAL_ENGINE: every other operand. -/
  | convertNormalEngine (sign : BitVec 1) (ef : BitVec 8) (mf : BitVec 23)
  | idle | decode | signw | zero | normal | subnormal | fastint
  | bounds | expk | shifth | lut | mull | mulc | mulr | interval | shorter | direct | tie
  | digits | layout | emit | done | fault
  | chr0 | chr1 | chr2 | chr3 | chr4 | chr5 | chr6 | chr7 | chr8 | chr9
  | chrMinus | chrPlus | chrPoint | chrE
  deriving DecidableEq, Repr

end Sys2Proof
end

