-- ==== Sys2Proof/WellFormed.lean ====
section
/-! DEFINITION. Which instructions stand for an operand word of their class (R62). Phases and characters have no
operands, so they are always well-formed. -/

namespace Sys2Proof

/-- The condition `fast` of R62 on the fields: 127 <= EF <= 150 and the low 150 - EF bits of MF are zero. -/
def fastOperand (ef : BitVec 8) (mf : BitVec 23) : Bool :=
  127 ≤ ef.toNat && ef.toNat ≤ 150 && mf.toNat % 2 ^ (150 - ef.toNat) == 0

/-- The class conditions of R62, priorities included. -/
def wellFormed : Instr → Bool
  | .convertInfnan _ _ => true
  | .convertZero _ => true
  | .convertSubnormal _ mf => mf != 0
  | .convertNormalFastint _ ef mf => fastOperand ef mf
  | .convertNormalEngine _ ef mf => ef != 0 && ef != 255 && !fastOperand ef mf
  | .idle | .decode | .signw | .zero | .normal | .subnormal | .fastint | .bounds | .expk | .shifth | .lut | .mull
  | .mulc | .mulr | .interval | .shorter | .direct | .tie | .digits | .layout | .emit | .done | .fault => true
  | .chr0 | .chr1 | .chr2 | .chr3 | .chr4 | .chr5 | .chr6 | .chr7 | .chr8 | .chr9 | .chrMinus | .chrPlus
  | .chrPoint | .chrE => true

/-- Well-formedness as a proposition. -/
abbrev WellFormed (i : Instr) : Prop := wellFormed i = true

end Sys2Proof
end

