-- ==== Sys2Proof/Decode.lean ====
section
/-! DEFINITION. Decoding of the three formats of the table (R60, R62, R70, R72, R77), total and rejecting by name, and
after it the encoder. -/

namespace Sys2Proof

/-- Why a word is no row of the table. -/
inductive DecodeError where
  /-- A PHASE code 23..31 (R75). -/
  | reservedPhase (code : Nat)
  /-- A byte that is none of the 14 characters (R70). -/
  | notACharacter (byte : Nat)
  /-- Neither one byte nor the four bytes of an operand word (R60, R77). -/
  | badLength (bytes : Nat)
  deriving DecidableEq, Repr

/-! Fields of the operand word (R60). -/

/-- `sign`, bit 31. -/
def signField (w : Word) : BitVec 1 := w.extractLsb' 31 1

/-- `exponent field`, bits 30:23. -/
def expField (w : Word) : BitVec 8 := w.extractLsb' 23 8

/-- `mantissa field`, bits 22:0. -/
def mantField (w : Word) : BitVec 23 := w.extractLsb' 0 23

/-- The operand word with these fields (R60). -/
def operandWord (sign : BitVec 1) (ef : BitVec 8) (mf : BitVec 23) : Word := (sign ++ ef ++ mf).cast (by decide)

/-- The class of an operand word, tested in the order of R62. All words are accepted (R63). -/
def decodeOperand (w : Word) : Instr :=
  if expField w = 255 then .convertInfnan (signField w) (mantField w)
  else if expField w = 0 ∧ mantField w = 0 then .convertZero (signField w)
  else if expField w = 0 then .convertSubnormal (signField w) (mantField w)
  else if fastOperand (expField w) (mantField w) then .convertNormalFastint (signField w) (expField w) (mantField w)
  else .convertNormalEngine (signField w) (expField w) (mantField w)

/-! Phase codes (R72). -/

/-- The code PHASE holds in each phase. -/
def Phase.code : Phase → BitVec 5
  | .idle => 0 | .decode => 1 | .signw => 2 | .zero => 3 | .normal => 4 | .subnormal => 5 | .fastint => 6
  | .bounds => 7 | .expk => 8 | .shifth => 9 | .lut => 10 | .mull => 11 | .mulc => 12 | .mulr => 13
  | .interval => 14 | .shorter => 15 | .direct => 16 | .tie => 17 | .digits => 18 | .layout => 19 | .emit => 20
  | .done => 21 | .fault => 22

/-- The phase with a code; codes 23..31 are reserved (R75). -/
def phaseOfCode (b : BitVec 5) : Except DecodeError Phase :=
  match b.toNat with
  | 0 => .ok .idle | 1 => .ok .decode | 2 => .ok .signw | 3 => .ok .zero | 4 => .ok .normal | 5 => .ok .subnormal
  | 6 => .ok .fastint | 7 => .ok .bounds | 8 => .ok .expk | 9 => .ok .shifth | 10 => .ok .lut | 11 => .ok .mull
  | 12 => .ok .mulc | 13 => .ok .mulr | 14 => .ok .interval | 15 => .ok .shorter | 16 => .ok .direct
  | 17 => .ok .tie | 18 => .ok .digits | 19 => .ok .layout | 20 => .ok .emit | 21 => .ok .done | 22 => .ok .fault
  | other => .error (.reservedPhase other)

/-- The instruction that PHASE, the program counter, selects (R24). -/
def Phase.instr : Phase → Instr
  | .idle => .idle | .decode => .decode | .signw => .signw | .zero => .zero | .normal => .normal
  | .subnormal => .subnormal | .fastint => .fastint | .bounds => .bounds | .expk => .expk | .shifth => .shifth
  | .lut => .lut | .mull => .mull | .mulc => .mulc | .mulr => .mulr | .interval => .interval
  | .shorter => .shorter | .direct => .direct | .tie => .tie | .digits => .digits | .layout => .layout
  | .emit => .emit | .done => .done | .fault => .fault

/-- Decoding of a PHASE5 word. -/
def decodePhase (b : BitVec 5) : Except DecodeError Instr := (phaseOfCode b).map Phase.instr

/-! Character codes (R70). -/

/-- Decoding of an ASCII8 word. -/
def decodeChar (b : Byte) : Except DecodeError Instr :=
  match b.toNat with
  | 0x30 => .ok .chr0 | 0x31 => .ok .chr1 | 0x32 => .ok .chr2 | 0x33 => .ok .chr3 | 0x34 => .ok .chr4
  | 0x35 => .ok .chr5 | 0x36 => .ok .chr6 | 0x37 => .ok .chr7 | 0x38 => .ok .chr8 | 0x39 => .ok .chr9
  | 0x2D => .ok .chrMinus | 0x2B => .ok .chrPlus | 0x2E => .ok .chrPoint | 0x65 => .ok .chrE
  | other => .error (.notACharacter other)

/-- A one-byte word: a PHASE code in the low five bits when the byte is below 32, else a character. No character code
is below 32, so the two formats do not meet (log 10). -/
def decodeByte (b : Byte) : Except DecodeError Instr :=
  if b.toNat < 32 then decodePhase (b.extractLsb' 0 5) else decodeChar b

/-- The operand word laid out in four bytes, least significant first (log 10). -/
def wordOfBytes (b0 b1 b2 b3 : Byte) : Word := (b3 ++ b2 ++ b1 ++ b0).cast (by decide)

/-- The bytes of an operand word, least significant first (log 10). -/
def bytesOfWord (w : Word) : List Byte :=
  [w.extractLsb' 0 8, w.extractLsb' 8 8, w.extractLsb' 16 8, w.extractLsb' 24 8]

/-- The decoder: total on any bytes. -/
def decodeBytes : List Byte → Except DecodeError Instr
  | [b] => decodeByte b
  | [b0, b1, b2, b3] => .ok (decodeOperand (wordOfBytes b0 b1 b2 b3))
  | bs => .error (.badLength bs.length)

/-! The encoder, written from R60, R62, R70, R72. -/

/-- The bytes of an instruction. -/
def encode : Instr → List Byte
  | .convertInfnan sign mf => bytesOfWord (operandWord sign 255 mf)
  | .convertZero sign => bytesOfWord (operandWord sign 0 0)
  | .convertSubnormal sign mf => bytesOfWord (operandWord sign 0 mf)
  | .convertNormalFastint sign ef mf => bytesOfWord (operandWord sign ef mf)
  | .convertNormalEngine sign ef mf => bytesOfWord (operandWord sign ef mf)
  | .idle => [0] | .decode => [1] | .signw => [2] | .zero => [3] | .normal => [4] | .subnormal => [5]
  | .fastint => [6] | .bounds => [7] | .expk => [8] | .shifth => [9] | .lut => [10] | .mull => [11]
  | .mulc => [12] | .mulr => [13] | .interval => [14] | .shorter => [15] | .direct => [16] | .tie => [17]
  | .digits => [18] | .layout => [19] | .emit => [20] | .done => [21] | .fault => [22]
  | .chr0 => [0x30] | .chr1 => [0x31] | .chr2 => [0x32] | .chr3 => [0x33] | .chr4 => [0x34] | .chr5 => [0x35]
  | .chr6 => [0x36] | .chr7 => [0x37] | .chr8 => [0x38] | .chr9 => [0x39]
  | .chrMinus => [0x2D] | .chrPlus => [0x2B] | .chrPoint => [0x2E] | .chrE => [0x65]

/-- A word of the opcode table as bytes: an operand word when the row has 32 bits; otherwise the one byte that holds
the row's encoding of 5 or 8 bits (a `field` that the reader placed above bit 7 of such a row is no bit of the spec's
encoding, spec/98_reader.md; log 10). -/
def tableBytes (nbits w : Nat) : List Byte :=
  if 32 ≤ nbits then bytesOfWord (BitVec.ofNat 32 w) else [BitVec.ofNat 8 w]

/-- The instruction the decoder reads from a word of the opcode table. -/
def decodeTableWord (nbits w : Nat) : Option Instr := (decodeBytes (tableBytes nbits w)).toOption

end Sys2Proof
end

