-- ==== Sys2Proof/Config.lean ====
section
/-! DEFINITION. What an implementation fixes: the layout thresholds (R6, U17), and the free values: what the
spec leaves unspecified while the machine goes on. -/

namespace Sys2Proof

/-- The rows of rule R6 marked `configuration`. -/
structure Config where
  /-- `SCI_LO`: below it the scientific layout is chosen. -/
  sciLo : Int
  /-- `SCI_HI`: above it the scientific layout is chosen. -/
  sciHi : Int
  deriving DecidableEq, Repr

/-- The only values rule R6 admits. -/
def Config.encoder : Config := { sciLo := -6, sciHi := 20 }

/-- Names of the values the spec leaves open: which register (or port, or array entry) is left unspecified. -/
inductive OpenValue where
  | wrOff | wrData
  | raw | sign | ef | mf | c | q | irr | cbl | cb | cbr | k | h | g | vbl | vb | vbr | lower | upper | sReg
  | sig | exp | dig (i : Nat) | n | nk | dpp | se | mode | txt (i : Nat) | tlen | pos | len
  /-- A digit `d[j]` whose place in DIG does not exist. -/
  | digit (j : Nat)
  /-- A body byte `TXT[i]` whose place in TXT does not exist. -/
  | body
  deriving DecidableEq, Repr

/-- A free value of `w` bits: whatever the machine leaves in the place named, in the step numbered `n`. It has no
body, so no proof can rest on what it is (log 3). -/
opaque Config.freeBits (w : Nat) (place : OpenValue) (n : Nat) : BitVec w

end Sys2Proof
end

