-- ==== Sys2Proof/Machine/State.lean ====
section
/-! DEFINITION. The state of one instance (R10 to R25, R36, R47), plain data; the reasons a step can stop; the state
after reset (R29, R180). -/

namespace Sys2Proof.Machine

/-- The levels the host drives on the input ports for one step (R12). -/
structure Ports where
  rst : Bool
  start : Bool
  inBits : Word
  deriving DecidableEq, Repr

/-- What the host does next (R10, R76; log 5, log 7, log 14). -/
inductive HostAction where
  /-- One step of the block with these levels on the input ports. -/
  | drive (p : Ports)
  /-- One transaction CONVERT: `in_bits` and `start` for one step, then the host waits for `done`. -/
  | convert (w : Word)
  /-- The host writes a byte of its own buffer; the block takes no step. -/
  | write (off : BitVec 5) (b : Byte)
  deriving DecidableEq, Repr

/-- The layouts, MODE's four codes (R73). -/
inductive LayoutMode where
  | sci | fixedInt | fixedFrac | fixedSmall
  deriving DecidableEq, Repr

/-- OUT as the bytes that have a value: offsets strictly rising (`Memory.wf`). An offset not listed has no value. -/
abbrev Memory := List Host.Cell

/-- The state: the registers under the spec's names (S is `sReg`), OUT, the ports, the host's pending actions, and the
counter that numbers free values. -/
structure State where
  /-- The host's pending actions, next first: the MODEL's own field (log 5). -/
  host : List HostAction
  /-- Port `rst`, the level of the last step (R12). -/
  rst : Bool
  /-- Port `start` (R12). -/
  start : Bool
  /-- Port `in_bits` (R12). -/
  inBits : Word
  /-- Port `wr_en` in the last step (R12, R48). -/
  wrEn : Bool
  /-- Port `wr_off` (R12). -/
  wrOff : BitVec 5
  /-- Port `wr_data` (R12). -/
  wrData : Byte
  /-- PHASE, the program counter (R24). -/
  phase : Phase
  /-- FAULT (R25). -/
  fault : BitVec 1
  /-- CAUSE (R25). -/
  cause : BitVec 2
  /-- RAW (R14). -/
  raw : Word
  /-- SIGN (R15). -/
  sign : BitVec 1
  /-- EF (R15). -/
  ef : BitVec 8
  /-- MF (R15). -/
  mf : BitVec 23
  /-- C (R16). -/
  c : BitVec 24
  /-- Q, signed (R16). -/
  q : BitVec 9
  /-- IRR (R17). -/
  irr : BitVec 1
  /-- CBL (R18). -/
  cbl : BitVec 26
  /-- CB (R18). -/
  cb : BitVec 26
  /-- CBR (R18). -/
  cbr : BitVec 26
  /-- K, signed (R18). -/
  k : BitVec 7
  /-- H (R18). -/
  h : BitVec 3
  /-- G (R18). -/
  g : Ceiling
  /-- VBL (R18). -/
  vbl : BitVec 32
  /-- VB (R18). -/
  vb : BitVec 32
  /-- VBR (R18). -/
  vbr : BitVec 32
  /-- LOWER (R18). -/
  lower : BitVec 32
  /-- UPPER (R18). -/
  upper : BitVec 32
  /-- S (R18). -/
  sReg : BitVec 28
  /-- SIG (R19). -/
  sig : BitVec 32
  /-- EXP, signed (R19). -/
  exp : BitVec 7
  /-- DIG[0..8] (R20). -/
  dig : Vector Byte 9
  /-- N (R20). -/
  n : BitVec 4
  /-- NK (R20). -/
  nk : BitVec 4
  /-- DPP, signed (R21). -/
  dpp : BitVec 7
  /-- SE, signed (R21). -/
  se : BitVec 7
  /-- MODE (R21). -/
  mode : LayoutMode
  /-- TXT[0..20] (R22). -/
  txt : Vector Byte 21
  /-- TLEN (R22). -/
  tlen : BitVec 5
  /-- POS (R23). -/
  pos : BitVec 5
  /-- LEN (R23). -/
  len : BitVec 5
  /-- OUT, the host's buffer (R47). -/
  out : Memory
  /-- The number of the next step's free values: the MODEL's own field (log 3). -/
  freeCtr : Nat
  deriving DecidableEq, Repr

/-- The reasons a step stops. The spec's own ContractFault is no such reason: it is a next state (R163). -/
inductive Fault where
  /-- Raised by `step` when the host's next action writes OUT while `busy` = 1, which R186 forbids: which of the two
  writers' bytes remains is an order the spec does not give. Safe: the model stops where the hardware goes on. -/
  | bufferRace (off : BitVec 5)
  deriving DecidableEq, Repr

/-- The reasons a step has no meaning. -/
inductive Refusal where
  /-- Raised by `exec` alone, for a row without a meaning; every row has one, so it is never raised. Safe. -/
  | notModelled (mnemonic : String)
  deriving DecidableEq, Repr

/-- The machine right after reset: R29's values for PHASE, FAULT, CAUSE, LEN, POS, `wr_en`; zero for every register
R29 leaves unspecified (DESIGN CHOICE, log 1), for the ports (log 4, log 5) and the counter (log 3); OUT lists nothing
(log 13) and the host has no action pending (log 5, log 6). -/
def State.reset : State where
  host := []
  rst := false
  start := false
  inBits := 0
  wrEn := false
  wrOff := 0
  wrData := 0
  phase := .idle
  fault := 0
  cause := 0
  raw := 0
  sign := 0
  ef := 0
  mf := 0
  c := 0
  q := 0
  irr := 0
  cbl := 0
  cb := 0
  cbr := 0
  k := 0
  h := 0
  g := 0
  vbl := 0
  vb := 0
  vbr := 0
  lower := 0
  upper := 0
  sReg := 0
  sig := 0
  exp := 0
  dig := Vector.replicate 9 0
  n := 0
  nk := 0
  dpp := 0
  se := 0
  mode := .sci
  txt := Vector.replicate 21 0
  tlen := 0
  pos := 0
  len := 0
  out := []
  freeCtr := 0

end Sys2Proof.Machine
end

