-- ==== Sys2Proof/Machine/Tables.lean ====
section
/-! DEFINITION. The constants of the design (R6) and the two constant tables POW10 (R41 to R44) and PAIR (R46). -/

namespace Sys2Proof.Machine

/-- `BIAS` (R6; log 15). -/
@[reducible, simp] def bias : Int := 127

/-- `MANT_BITS` (R6). -/
@[reducible, simp] def mantBits : Nat := 23

/-- `LOG10_2_MUL` (R6, R103; log 15). -/
@[reducible, simp] def log10Of2Mul : Int := 1262611

/-- `LOG10_2_SHIFT` (R6, R103). -/
@[reducible, simp] def log10Of2Shift : Nat := 22

/-- `LOG10_34_SUB` (R6, R103; log 15). -/
@[reducible, simp] def log10Of34Sub : Int := 524031

/-- `LOG2_10_MUL` (R6, R103; log 15). -/
@[reducible, simp] def log2Of10Mul : Int := 1741647

/-- `LOG2_10_SHIFT` (R6, R103). -/
@[reducible, simp] def log2Of10Shift : Nat := 19

/-- `POW10_MIN_E` (R6). -/
@[reducible, simp] def pow10MinE : Int := -31

/-- `POW10_MAX_E` (R6). -/
@[reducible, simp] def pow10MaxE : Int := 45

/-- `OUT_CAP`, the size of the offset space of OUT (R6, R47). -/
@[reducible, simp] def outCap : Nat := 32

/-! The character codes (R70). -/

/-- "-" -/
@[reducible, simp] def chrMinusCode : Byte := 0x2D

/-- "+" -/
@[reducible, simp] def chrPlusCode : Byte := 0x2B

/-- "." -/
@[reducible, simp] def chrPointCode : Byte := 0x2E

/-- "e" -/
@[reducible, simp] def chrECode : Byte := 0x65

/-- "0" -/
@[reducible, simp] def chrZeroCode : Byte := 0x30

/-- `chr(d)`, the character of a digit 0..9 (R70). -/
def chr (d : Nat) : Byte := BitVec.ofNat 8 (0x30 + d)

/-- `PAIR[i]`, tens first (R46). -/
def pair (i : Nat) : Byte × Byte := (chr (i / 10), chr (i % 10))

/-- R44, indices 0..10 (e = -31..-21). -/
def pow10Rows0 : List Ceiling :=
  [0x81CEB32C4B43FCF5, 0xA2425FF75E14FC32, 0xCAD2F7F5359A3B3F, 0xFD87B5F28300CA0E, 0x9E74D1B791E07E49,
   0xC612062576589DDB, 0xF79687AED3EEC552, 0x9ABE14CD44753B53, 0xC16D9A0095928A28, 0xF1C90080BAF72CB2,
   0x971DA05074DA7BEF]

/-- R44, indices 11..21 (e = -20..-10). -/
def pow10Rows11 : List Ceiling :=
  [0xBCE5086492111AEB, 0xEC1E4A7DB69561A6, 0x9392EE8E921D5D08, 0xB877AA3236A4B44A, 0xE69594BEC44DE15C,
   0x901D7CF73AB0ACDA, 0xB424DC35095CD810, 0xE12E13424BB40E14, 0x8CBCCC096F5088CC, 0xAFEBFF0BCB24AAFF,
   0xDBE6FECEBDEDD5BF]

/-- R44, indices 22..32 (e = -9..1). -/
def pow10Rows22 : List Ceiling :=
  [0x89705F4136B4A598, 0xABCC77118461CEFD, 0xD6BF94D5E57A42BD, 0x8637BD05AF6C69B6, 0xA7C5AC471B478424,
   0xD1B71758E219652C, 0x83126E978D4FDF3C, 0xA3D70A3D70A3D70B, 0xCCCCCCCCCCCCCCCD, 0x8000000000000000,
   0xA000000000000000]

/-- R44, indices 33..43 (e = 2..12). -/
def pow10Rows33 : List Ceiling :=
  [0xC800000000000000, 0xFA00000000000000, 0x9C40000000000000, 0xC350000000000000, 0xF424000000000000,
   0x9896800000000000, 0xBEBC200000000000, 0xEE6B280000000000, 0x9502F90000000000, 0xBA43B74000000000,
   0xE8D4A51000000000]

/-- R44, indices 44..54 (e = 13..23). -/
def pow10Rows44 : List Ceiling :=
  [0x9184E72A00000000, 0xB5E620F480000000, 0xE35FA931A0000000, 0x8E1BC9BF04000000, 0xB1A2BC2EC5000000,
   0xDE0B6B3A76400000, 0x8AC7230489E80000, 0xAD78EBC5AC620000, 0xD8D726B7177A8000, 0x878678326EAC9000,
   0xA968163F0A57B400]

/-- R44, indices 55..65 (e = 24..34). -/
def pow10Rows55 : List Ceiling :=
  [0xD3C21BCECCEDA100, 0x84595161401484A0, 0xA56FA5B99019A5C8, 0xCECB8F27F4200F3A, 0x813F3978F8940985,
   0xA18F07D736B90BE6, 0xC9F2C9CD04674EDF, 0xFC6F7C4045812297, 0x9DC5ADA82B70B59E, 0xC5371912364CE306,
   0xF684DF56C3E01BC7]

/-- R44, indices 66..76 (e = 35..45). -/
def pow10Rows66 : List Ceiling :=
  [0x9A130B963A6C115D, 0xC097CE7BC90715B4, 0xF0BDC21ABB48DB21, 0x96769950B50D88F5, 0xBC143FA4E250EB32,
   0xEB194F8E1AE525FE, 0x92EFD1B8D0CF37BF, 0xB7ABC627050305AE, 0xE596B7B0C643C71A, 0x8F7E32CE7BEA5C70,
   0xB35DBF821AE4F38C]

/-- The 77 entries in the order of the physical index e + 31 (R42, R44). -/
def pow10Table : List Ceiling :=
  pow10Rows0 ++ pow10Rows11 ++ pow10Rows22 ++ pow10Rows33 ++ pow10Rows44 ++ pow10Rows55 ++ pow10Rows66

/-- `POW10[e]` for -31 <= e <= 45 (R43). Outside that range it is no read: LUT raises ContractFault instead (R106). -/
def pow10 (e : Int) : Ceiling := pow10Table.getD (e - pow10MinE).toNat 0

end Sys2Proof.Machine
end

