-- ==== Sys2Proof/Machine/Ops.lean ====
section
/-! DEFINITION. The named operations over registers, ports and OUT: arithmetic (R107), register writes (R120), MemWrite
(R48), the status outputs (R12, R13), the frame of a step (R12), taking ContractFault (R163) and reset (R180). -/

namespace Sys2Proof.Machine

/-! Arithmetic. -/

/-- `asr(a, n)`: floor division by 2^n (spec/00_scope.md section 5). -/
def asr (a : Int) (n : Nat) : Int := a / 2 ^ n

/-- `rop(g, cp)`: the high half of the exact product, bit 0 forced to 1 when bits 63:32 of the low half exceed 1
(R107). -/
def rop (g cp : Nat) : Nat :=
  let p := g * cp
  let hi := p / 2 ^ 64
  let lo := p % 2 ^ 64
  let sticky := if lo / 2 ^ 32 > 1 then 1 else 0
  hi ||| sticky

/-! Register writes. The rules compute with integers and no rule relies on wrap-around (R120), so a value the register
does not hold leaves it at a free value (log 11). -/

/-- The free value of a place in the current step (log 3). -/
def State.free (s : State) (w : Nat) (x : OpenValue) : BitVec w := Config.freeBits w x s.freeCtr

/-- An unsigned register of `w` bits written with `v`. -/
def fitU (w : Nat) (v : Int) (x : OpenValue) (s : State) : BitVec w :=
  if 0 ≤ v ∧ v < 2 ^ w then BitVec.ofInt w v else s.free w x

/-- A signed register of `w + 1` bits written with `v`. -/
def fitS (w : Nat) (v : Int) (x : OpenValue) (s : State) : BitVec (w + 1) :=
  if -2 ^ w ≤ v ∧ v < 2 ^ w then BitVec.ofInt (w + 1) v else s.free (w + 1) x

/-! OUT (R47, R48). -/

/-- The byte at an offset, where one has been written. -/
def Memory.read? : Memory → Nat → Option Byte
  | [], _ => none
  | (a', b') :: m, a => if a' = a then some b' else Memory.read? m a

/-- Writes one byte and keeps the canonical form. -/
def Memory.write : Memory → Nat → Byte → Memory
  | [], a, b => [(a, b)]
  | (a', b') :: m, a, b =>
    if a < a' then (a, b) :: (a', b') :: m
    else if a = a' then (a, b) :: m
    else (a', b') :: Memory.write m a b

/-- Every offset is at least `lo` and below `OUT_CAP`, and offsets rise strictly. -/
def Memory.wfFrom : Nat → Memory → Bool
  | _, [] => true
  | lo, (a, _) :: m => decide (lo ≤ a) && decide (a < outCap) && Memory.wfFrom (a + 1) m

/-- The canonical form: offsets strictly rising and inside 0..31 (R47). -/
def Memory.wf (m : Memory) : Bool := Memory.wfFrom 0 m

/-- `MemWrite(OUT, off, 1, b)`: the byte is stored and the write port shows it (R48). -/
def memWrite (off : BitVec 5) (b : Byte) (s : State) : State :=
  { s with out := s.out.write off.toNat b, wrEn := true, wrOff := off, wrData := b }

/-! Status outputs (R12, R13). -/

/-- Port `ready`. -/
def State.ready (s : State) : Bool := s.phase == .idle || s.phase == .done

/-- Port `done`. -/
def State.done (s : State) : Bool := s.phase == .done

/-- Port `busy`. -/
def State.busy (s : State) : Bool := !(s.phase == .idle || s.phase == .done || s.phase == .fault)

/-- The status word `{cause, fault, len, done, busy, ready}` (R13). -/
def State.status (s : State) : BitVec 11 :=
  s.cause ++ s.fault ++ s.len ++ BitVec.ofBool s.done ++ BitVec.ofBool s.busy ++ BitVec.ofBool s.ready

/-- MODE's code (R73). -/
def LayoutMode.code : LayoutMode → BitVec 2
  | .sci => 0 | .fixedInt => 1 | .fixedFrac => 2 | .fixedSmall => 3

/-- The layout with a code (R73); the four codes are all taken. -/
def LayoutMode.ofCode (b : BitVec 2) : LayoutMode :=
  if b = 0 then .sci else if b = 1 then .fixedInt else if b = 2 then .fixedFrac else .fixedSmall

/-! The frame of a step. -/

/-- The levels of a host that asks for nothing: `in_bits` stays as it was (log 5). -/
def Ports.quiet (s : State) : Ports := { rst := false, start := false, inBits := s.inBits }

/-- What every step of the block begins with: the ports take their levels, the write port shows no write and so
unspecified `wr_off` and `wr_data` (R29, U10; log 4), and the step gets its number (log 3). -/
def beginStep (p : Ports) (s : State) : State :=
  { s with
    rst := p.rst
    start := p.start
    inBits := p.inBits
    wrEn := false
    wrOff := Config.freeBits 5 .wrOff (s.freeCtr + 1)
    wrData := Config.freeBits 8 .wrData (s.freeCtr + 1)
    freeCtr := s.freeCtr + 1 }

/-! Exceptions. -/

/-- `raise ContractFault(cause)`: FAULT, CAUSE and PHASE are written, nothing else (R163). There is no handler, no
saved program counter and no mode (R168). -/
def raiseContractFault (cause : BitVec 2) (s : State) : State :=
  { s with fault := 1, cause := cause, phase := .fault }

/-- A step with `rst` = 1, the only return from FAULT (R169, R180): PHASE, FAULT, CAUSE, LEN and POS are cleared, OUT is
not touched (R182), every other register is unspecified afterwards (R29; log 2). -/
def resetStep (s : State) : State :=
  { s with
    phase := .idle
    fault := 0
    cause := 0
    len := 0
    pos := 0
    raw := s.free 32 .raw
    sign := s.free 1 .sign
    ef := s.free 8 .ef
    mf := s.free 23 .mf
    c := s.free 24 .c
    q := s.free 9 .q
    irr := s.free 1 .irr
    cbl := s.free 26 .cbl
    cb := s.free 26 .cb
    cbr := s.free 26 .cbr
    k := s.free 7 .k
    h := s.free 3 .h
    g := s.free 64 .g
    vbl := s.free 32 .vbl
    vb := s.free 32 .vb
    vbr := s.free 32 .vbr
    lower := s.free 32 .lower
    upper := s.free 32 .upper
    sReg := s.free 28 .sReg
    sig := s.free 32 .sig
    exp := s.free 7 .exp
    dig := Vector.ofFn fun i => s.free 8 (.dig i.val)
    n := s.free 4 .n
    nk := s.free 4 .nk
    dpp := s.free 7 .dpp
    se := s.free 7 .se
    mode := LayoutMode.ofCode (s.free 2 .mode)
    txt := Vector.ofFn fun i => s.free 8 (.txt i.val)
    tlen := s.free 5 .tlen }

end Sys2Proof.Machine
end

