-- ==== Sys2Proof/Machine/Operands.lean ====
section
/-! DEFINITION. The operand forms: assembly of (c, q) (R61), the entries of DIG and TXT and the runs of characters read
from and written to them (R20, R22, R130, R140). -/

namespace Sys2Proof.Machine

/-! Operand assembly (R61). -/

/-- c of a normal operand: the mantissa field with the implicit leading bit. -/
def normalC (mf : BitVec 23) : Nat := 2 ^ mantBits + mf.toNat

/-- q of a normal operand: exponent field - bias - mantissa-bit-width. -/
def normalQ (ef : BitVec 8) : Int := ef.toNat - bias - mantBits

/-- q of a subnormal operand: 1 - bias - mantissa-bit-width. -/
def subnormalQ : Int := 1 - bias - mantBits

/-! DIG. -/

/-- `d[j]`, that is DIG[9-N+j] (R130). The entry exists for every j < N <= 9; otherwise a free value (log 12). -/
def State.digit (s : State) (j : Nat) : Byte :=
  (if s.n.toNat ≤ 9 + j then s.dig[9 + j - s.n.toNat]? else none).getD (s.free 8 (.digit j))

/-- `d[a]`, .., `d[b-1]`. -/
def digitRun (d : Nat → Byte) (a b : Nat) : List Byte := (List.range (b - a)).map fun j => d (a + j)

/-- DIG with its last entries replaced by these characters; the entries before them are not written (log 12). -/
def storeDigits (dig : Vector Byte 9) (ds : List Byte) : Vector Byte 9 :=
  Vector.ofFn fun i => if 9 ≤ i.val + ds.length then ds.getD (i.val + ds.length - 9) 0 else dig[i]

/-! TXT. -/

/-- TXT with its first entries replaced by these characters; the entries after them are not written (log 12). -/
def storeText (txt : Vector Byte 21) (t : List Byte) : Vector Byte 21 :=
  Vector.ofFn fun i => t.getD i.val txt[i]

/-- The index into the body of the byte EMIT writes: POS - SIGN (R140). -/
def State.bodyIndex (s : State) : Int := s.pos.toNat - s.sign.toNat

/-- `TXT[i]` for i = POS - SIGN. The entry exists in every run; otherwise a free value (log 12). -/
def State.bodyByte (s : State) : Byte :=
  (if 0 ≤ s.bodyIndex then s.txt[s.bodyIndex.toNat]? else none).getD (s.free 8 .body)

end Sys2Proof.Machine
end

