-- ==== Sys2Proof/Machine/Flags.lean ====
section
/-! DEFINITION. The predicates of the rules (R26). The block has no condition-code register; IRR alone is kept. -/

namespace Sys2Proof.Machine

/-- `is_infnan` (R81). -/
def isInfnan (ef : BitVec 8) : Bool := ef == 255

/-- `is_zero` (R82). -/
def isZero (ef : BitVec 8) (mf : BitVec 23) : Bool := ef == 0 && mf == 0

/-- `is_normal` (R82). -/
def isNormal (ef : BitVec 8) : Bool := ef != 0

/-- `fast`, on the values c', q' being written (R84). -/
def isFast (c : Nat) (q : Int) : Bool :=
  decide (q ≤ 0) && decide (-mantBits ≤ q) && c % 2 ^ (-q).toNat == 0

/-- The irregular flag (R101). -/
def isIrregular (ef : BitVec 8) (mf : BitVec 23) : Bool := mf == 0 && decide (1 < ef.toNat)

/-- `up`: the shorter candidate s' is inside (R112). -/
def shorterLow (lower sp : Nat) : Bool := lower ≤ 40 * sp

/-- `wp`: the shorter candidate s' + 1 is inside (R112). -/
def shorterHigh (upper sp : Nat) : Bool := 40 * sp + 40 ≤ upper

/-- `u`: the direct candidate s is inside (R113). -/
def directLow (lower s : Nat) : Bool := lower ≤ 4 * s

/-- `w`: the direct candidate s + 1 is inside (R113). -/
def directHigh (upper s : Nat) : Bool := 4 * s + 4 ≤ upper

/-- `round_up`: nearest to the true value, the even significand on equality (R114). -/
def roundUp (vb s : Nat) : Bool := decide (4 * s + 2 < vb) || (vb == 4 * s + 2 && s % 2 == 1)

/-- `sci`: the layout decision (R131). -/
def isSci (cfg : Config) (se : Int) : Bool := decide (se < cfg.sciLo) || decide (cfg.sciHi < se)

end Sys2Proof.Machine
end

