-- ==== Sys2Proof/Machine/Driver.lean ====
section
/-! DEFINITION. The driver and the bit decomposition: IDLE, DONE, DECODE, SIGNW, ZERO, NORMAL, SUBNORMAL, FASTINT
(spec/40_dispatch.md) and the absorbing phase FAULT (R164). A `rule…` is the phase rule as a function; the meaning of the
phase answers it as the next state. -/

namespace Sys2Proof.Machine

/-- The handshake: with `start` = 1 the operand is taken and the conversion begins, else nothing changes (R80). -/
def handshake (s : State) : State :=
  if s.start then { s with raw := s.inBits, pos := 0, len := 0, phase := .decode } else s

/-- IDLE (R80). -/
def ruleIdle (s : State) : State := handshake s

/-- DONE holds its state until a START step (R80, R141). -/
def ruleDone (s : State) : State := handshake s

/-- DECODE (R81); an infinity or NaN is unsupported and ends here with LEN = 0 (R160). -/
def ruleDecode (s : State) : State :=
  let s1 := { s with sign := signField s.raw, ef := expField s.raw, mf := mantField s.raw }
  if isInfnan (expField s.raw) then { s1 with len := 0, phase := .done } else { s1 with phase := .signw }

/-- SIGNW (R82): "-" when the sign is set, then the dispatch. -/
def ruleSignw (s : State) : State :=
  let s1 := if s.sign = 1 then { memWrite s.pos chrMinusCode s with pos := fitU 5 (s.pos.toNat + 1) .pos s } else s
  { s1 with phase := if isZero s.ef s.mf then .zero else if isNormal s.ef then .normal else .subnormal }

/-- ZERO (R83). -/
def ruleZero (s : State) : State := { s with txt := storeText s.txt [chrZeroCode], tlen := 1, phase := .emit }

/-- NORMAL (R84). -/
def ruleNormal (s : State) : State :=
  { s with
    c := BitVec.ofNat 24 (normalC s.mf)
    q := BitVec.ofInt 9 (normalQ s.ef)
    phase := if isFast (normalC s.mf) (normalQ s.ef) then .fastint else .bounds }

/-- SUBNORMAL (R85). -/
def ruleSubnormal (s : State) : State :=
  { s with c := s.mf.zeroExtend 24, q := BitVec.ofInt 9 subnormalQ, phase := .bounds }

/-- FASTINT (R86): SIG is C >> (-Q), for Q <= 0; the rule gives no result for Q > 0, which NORMAL never sends here
(log 11). -/
def ruleFastint (s : State) : State :=
  { s with
    sig := if s.q.toInt ≤ 0 then BitVec.ofNat 32 (s.c.toNat / 2 ^ (-s.q.toInt).toNat) else s.free 32 .sig
    exp := 0
    phase := .digits }

/-- FAULT changes nothing (R164). -/
def ruleFault (s : State) : State := s

/-- IDLE. -/
def execIdle (s : State) : Host.Outcome State Fault Refusal := .next (ruleIdle s)

/-- DECODE. -/
def execDecode (s : State) : Host.Outcome State Fault Refusal := .next (ruleDecode s)

/-- SIGNW. -/
def execSignw (s : State) : Host.Outcome State Fault Refusal := .next (ruleSignw s)

/-- ZERO. -/
def execZero (s : State) : Host.Outcome State Fault Refusal := .next (ruleZero s)

/-- NORMAL. -/
def execNormal (s : State) : Host.Outcome State Fault Refusal := .next (ruleNormal s)

/-- SUBNORMAL. -/
def execSubnormal (s : State) : Host.Outcome State Fault Refusal := .next (ruleSubnormal s)

/-- FASTINT. -/
def execFastint (s : State) : Host.Outcome State Fault Refusal := .next (ruleFastint s)

/-- DONE. -/
def execDone (s : State) : Host.Outcome State Fault Refusal := .next (ruleDone s)

/-- FAULT. -/
def execFault (s : State) : Host.Outcome State Fault Refusal := .next (ruleFault s)

end Sys2Proof.Machine
end

