-- ==== Sys2Proof/Machine/Emit.lean ====
section
/-! DEFINITION. Emission: the phase EMIT (R140) and the 14 characters (R70), each the emission of its byte (log 9). -/

namespace Sys2Proof.Machine

/-- EMIT's rule for a byte of the body: it is written at POS, POS advances, and the last byte of the body completes the
conversion with LEN = the number of bytes written (R140). -/
def emitByte (b : Byte) (s : State) : State :=
  let pos' := fitU 5 (s.pos.toNat + 1) .pos s
  if s.bodyIndex + 1 = s.tlen.toNat then { memWrite s.pos b s with pos := pos', len := pos', phase := .done }
  else { memWrite s.pos b s with pos := pos', phase := .emit }

/-- EMIT (R140): the byte is TXT[POS - SIGN]. -/
def ruleEmit (s : State) : State := emitByte s.bodyByte s

/-- EMIT. -/
def execEmit (s : State) : Host.Outcome State Fault Refusal := .next (ruleEmit s)

/-- The character "0". -/
def execChr0 (s : State) : Host.Outcome State Fault Refusal := .next (emitByte 0x30 s)

/-- The character "1". -/
def execChr1 (s : State) : Host.Outcome State Fault Refusal := .next (emitByte 0x31 s)

/-- The character "2". -/
def execChr2 (s : State) : Host.Outcome State Fault Refusal := .next (emitByte 0x32 s)

/-- The character "3". -/
def execChr3 (s : State) : Host.Outcome State Fault Refusal := .next (emitByte 0x33 s)

/-- The character "4". -/
def execChr4 (s : State) : Host.Outcome State Fault Refusal := .next (emitByte 0x34 s)

/-- The character "5". -/
def execChr5 (s : State) : Host.Outcome State Fault Refusal := .next (emitByte 0x35 s)

/-- The character "6". -/
def execChr6 (s : State) : Host.Outcome State Fault Refusal := .next (emitByte 0x36 s)

/-- The character "7". -/
def execChr7 (s : State) : Host.Outcome State Fault Refusal := .next (emitByte 0x37 s)

/-- The character "8". -/
def execChr8 (s : State) : Host.Outcome State Fault Refusal := .next (emitByte 0x38 s)

/-- The character "9". -/
def execChr9 (s : State) : Host.Outcome State Fault Refusal := .next (emitByte 0x39 s)

/-- The character "-". -/
def execChrMinus (s : State) : Host.Outcome State Fault Refusal := .next (emitByte 0x2D s)

/-- The character "+". -/
def execChrPlus (s : State) : Host.Outcome State Fault Refusal := .next (emitByte 0x2B s)

/-- The character ".". -/
def execChrPoint (s : State) : Host.Outcome State Fault Refusal := .next (emitByte 0x2E s)

/-- The character "e". -/
def execChrE (s : State) : Host.Outcome State Fault Refusal := .next (emitByte 0x65 s)

end Sys2Proof.Machine
end

