-- ==== Sys2Proof/Machine/Engine.lean ====
section
/-! DEFINITION. The shortest-decimal engine: BOUNDS, EXPK, SHIFTH, LUT, MULL, MULC, MULR, INTERVAL, SHORTER, DIRECT, TIE
(spec/41_engine.md). -/

namespace Sys2Proof.Machine

/-- The decimal exponent k (R102), with the constants of R103. -/
def decimalExp (q : Int) (irr : Nat) : Int :=
  asr (q * log10Of2Mul - (if irr = 1 then log10Of34Sub else 0)) log10Of2Shift

/-- The shift h (R105), with floor where DOC says ceil (spec/90_conflicts.md C1). -/
def alignShift (q k : Int) : Int := q + asr (-k * log2Of10Mul) log2Of10Shift + 1

/-- BOUNDS (R101). -/
def ruleBounds (s : State) : State :=
  let irr : Nat := if isIrregular s.ef s.mf then 1 else 0
  { s with
    irr := BitVec.ofNat 1 irr
    cbl := fitU 26 (4 * s.c.toNat - 2 + irr) .cbl s
    cb := fitU 26 (4 * s.c.toNat) .cb s
    cbr := fitU 26 (4 * s.c.toNat + 2) .cbr s
    phase := .expk }

/-- EXPK (R102). -/
def ruleExpk (s : State) : State :=
  { s with k := fitS 6 (decimalExp s.q.toInt s.irr.toNat) .k s, phase := .shifth }

/-- SHIFTH (R105); the range of H is tested in LUT. -/
def ruleShifth (s : State) : State :=
  { s with h := fitU 3 (alignShift s.q.toInt s.k.toInt) .h s, phase := .lut }

/-- LUT (R106): the index test before the shift test (R167). -/
def ruleLut (s : State) : State :=
  if -s.k.toInt < pow10MinE ∨ pow10MaxE < -s.k.toInt then raiseContractFault 1 s
  else if s.h.toNat < 1 ∨ 4 < s.h.toNat then raiseContractFault 2 s
  else { s with g := pow10 (-s.k.toInt), phase := .mull }

/-- The scaled boundary `rop(G, cx << H)` (R107 to R110). -/
def scaled (s : State) (cx : BitVec 26) : Nat := rop s.g.toNat (cx.toNat * 2 ^ s.h.toNat)

/-- MULL (R108). -/
def ruleMull (s : State) : State := { s with vbl := fitU 32 (scaled s s.cbl) .vbl s, phase := .mulc }

/-- MULC (R109). -/
def ruleMulc (s : State) : State := { s with vb := fitU 32 (scaled s s.cb) .vb s, phase := .mulr }

/-- MULR (R110). -/
def ruleMulr (s : State) : State := { s with vbr := fitU 32 (scaled s s.cbr) .vbr s, phase := .interval }

/-- INTERVAL (R111): closed ends for an even C, open ends for an odd C. -/
def ruleInterval (s : State) : State :=
  let odd : Int := s.c.toNat % 2
  { s with
    lower := fitU 32 (s.vbl.toNat + odd) .lower s
    upper := fitU 32 (s.vbr.toNat - odd) .upper s
    sReg := fitU 28 (s.vb.toNat / 4 : Nat) .sReg s
    phase := .shorter }

/-- SHORTER (R112), with no guard on S (R123). -/
def ruleShorter (s : State) : State :=
  let sp := s.sReg.toNat / 10
  let up := shorterLow s.lower.toNat sp
  let wp := shorterHigh s.upper.toNat sp
  if up != wp then
    { s with
      sig := fitU 32 (sp + wp.toNat) .sig s
      exp := fitS 6 (s.k.toInt + 1) .exp s
      phase := .digits }
  else { s with phase := .direct }

/-- DIRECT (R113). -/
def ruleDirect (s : State) : State :=
  let u := directLow s.lower.toNat s.sReg.toNat
  let w := directHigh s.upper.toNat s.sReg.toNat
  if u != w then
    { s with sig := fitU 32 (s.sReg.toNat + w.toNat) .sig s, exp := s.k, phase := .digits }
  else { s with phase := .tie }

/-- TIE (R114). -/
def ruleTie (s : State) : State :=
  { s with
    sig := fitU 32 (s.sReg.toNat + (roundUp s.vb.toNat s.sReg.toNat).toNat) .sig s
    exp := s.k
    phase := .digits }

/-- BOUNDS. -/
def execBounds (s : State) : Host.Outcome State Fault Refusal := .next (ruleBounds s)

/-- EXPK. -/
def execExpk (s : State) : Host.Outcome State Fault Refusal := .next (ruleExpk s)

/-- SHIFTH. -/
def execShifth (s : State) : Host.Outcome State Fault Refusal := .next (ruleShifth s)

/-- LUT; a ContractFault is taken, so it too is a next state (R163). -/
def execLut (s : State) : Host.Outcome State Fault Refusal := .next (ruleLut s)

/-- MULL. -/
def execMull (s : State) : Host.Outcome State Fault Refusal := .next (ruleMull s)

/-- MULC. -/
def execMulc (s : State) : Host.Outcome State Fault Refusal := .next (ruleMulc s)

/-- MULR. -/
def execMulr (s : State) : Host.Outcome State Fault Refusal := .next (ruleMulr s)

/-- INTERVAL. -/
def execInterval (s : State) : Host.Outcome State Fault Refusal := .next (ruleInterval s)

/-- SHORTER. -/
def execShorter (s : State) : Host.Outcome State Fault Refusal := .next (ruleShorter s)

/-- DIRECT. -/
def execDirect (s : State) : Host.Outcome State Fault Refusal := .next (ruleDirect s)

/-- TIE. -/
def execTie (s : State) : Host.Outcome State Fault Refusal := .next (ruleTie s)

end Sys2Proof.Machine
end

