-- ==== Sys2Proof/Machine/Layout.lean ====
section
/-! DEFINITION. The text layout: DIGITS (R130) and LAYOUT (R131 to R137). -/

namespace Sys2Proof.Machine

/-! DIGITS. -/

/-- The last digits of R130's loop, for v < 100: a pair, or one character for a value below 10. -/
def lastDigits (v : Nat) (ds : List Byte) : List Byte :=
  if 10 ≤ v then (pair v).1 :: (pair v).2 :: ds else chr v :: ds

/-- R130's loop: a pair at a time from the right, while v >= 100 and for at most `fuel` pairs. -/
def digitLoop : Nat → Nat → List Byte → List Byte
  | 0, v, ds => lastDigits v ds
  | fuel + 1, v, ds =>
    if 100 ≤ v then digitLoop fuel (v / 100) ((pair (v % 100)).1 :: (pair (v % 100)).2 :: ds) else lastDigits v ds

/-- The characters of SIG's decimal digits, most significant first; four pairs at most go through the loop (R130). -/
def sigDigits (sig : Nat) : List Byte := digitLoop 4 sig []

/-- `tz`, the number of trailing "0" characters (R130). -/
def trailingZeros (ds : List Byte) : Nat := (ds.reverse.takeWhile (· == chrZeroCode)).length

/-- DIGITS (R130). The rule's operand is 1 <= SIG < 10^9; of any other SIG, which no run has, it states no digits
(U16; log 18). -/
def ruleDigits (s : State) : State :=
  if 1 ≤ s.sig.toNat ∧ s.sig.toNat < 10 ^ 9 then
    let ds := sigDigits s.sig.toNat
    { s with
      dig := storeDigits s.dig ds
      n := BitVec.ofNat 4 ds.length
      nk := BitVec.ofNat 4 (ds.length - trailingZeros ds)
      phase := .layout }
  else
    { s with
      dig := Vector.ofFn fun i => s.free 8 (.dig i.val)
      n := s.free 4 .n
      nk := s.free 4 .nk
      phase := .layout }

/-! LAYOUT. The text functions take the digits `d[j]`. -/

/-- `int_text` (R133): the integer digits, then zeros up to the decimal point. -/
def intText (d : Nat → Byte) (n dpp : Nat) : List Byte :=
  digitRun d 0 n ++ List.replicate (dpp - n) chrZeroCode

/-- `frac_text` (R134): a point at dpp, trailing zeros trimmed, and no point when no digit is left after it. -/
def fracText (d : Nat → Byte) (nk dpp : Nat) : List Byte :=
  digitRun d 0 dpp ++ (if dpp < nk then chrPointCode :: digitRun d dpp nk else [])

/-- `small_text` (R135): "0.", z zeros, the significant digits. -/
def smallText (d : Nat → Byte) (nk z : Nat) : List Byte :=
  [chrZeroCode, chrPointCode] ++ List.replicate z chrZeroCode ++ digitRun d 0 nk

/-- `exp_digits` (R137): no leading zero, at least one digit. The rule states it for 7 <= a <= 45; `ruleLayout` uses it for
no other text. -/
def expDigits (a : Nat) : List Byte := if 10 ≤ a then [(pair a).1, (pair a).2] else [chr a]

/-- `sci_text` (R136): the exponent printed is the scientific exponent (spec/90_conflicts.md C4). -/
def sciText (d : Nat → Byte) (nk : Nat) (se : Int) : List Byte :=
  d 0 :: (if 1 < nk then chrPointCode :: digitRun d 1 nk else [])
    ++ [chrECode, if 0 ≤ se then chrPlusCode else chrMinusCode] ++ expDigits se.natAbs

/-- The layout decision and the body text (R131). -/
def layoutText (cfg : Config) (d : Nat → Byte) (n nk : Nat) (dpp : Int) : LayoutMode × List Byte :=
  if isSci cfg (dpp - 1) then (.sci, sciText d nk (dpp - 1))
  else if n ≤ dpp then (.fixedInt, intText d n dpp.toNat)
  else if 0 < dpp then (.fixedFrac, fracText d nk dpp.toNat)
  else (.fixedSmall, smallText d nk (-dpp).toNat)

/-- The operands for which the spec states a text: EXP in R19's -45..32, and a scientific exponent of at most 45, the
domain of `exp_digits` (R137). -/
def textStated (exp dpp : Int) : Bool :=
  decide (-45 ≤ exp) && decide (exp ≤ 32) && decide ((dpp - 1).natAbs ≤ 45)

/-- LAYOUT (R131). DPP, SE and MODE are R131's for any operands. DESIGN CHOICE, safe (U16; log 18): where the spec states no
text, which no run comes to, TXT and TLEN are free values. -/
def ruleLayout (s : State) : State :=
  let dpp : Int := s.n.toNat + s.exp.toInt
  let t := layoutText Config.encoder s.digit s.n.toNat s.nk.toNat dpp
  let stated := textStated s.exp.toInt dpp
  { s with
    dpp := fitS 6 dpp .dpp s
    se := fitS 6 (dpp - 1) .se s
    mode := t.1
    txt := if stated then storeText s.txt t.2 else Vector.ofFn fun i => s.free 8 (.txt i.val)
    tlen := if stated then fitU 5 t.2.length .tlen s else s.free 5 .tlen
    phase := .emit }

/-- DIGITS. -/
def execDigits (s : State) : Host.Outcome State Fault Refusal := .next (ruleDigits s)

/-- LAYOUT. -/
def execLayout (s : State) : Host.Outcome State Fault Refusal := .next (ruleLayout s)

end Sys2Proof.Machine
end

