-- ==== Sys2Proof/Machine/Convert.lean ====
section
/-! DEFINITION. CONVERT (R76, R90): the transaction of one operand word, composed of the phase rules along the phase graph
(R74). Each operand class has its own meaning; the class decides the path by itself, in DECODE, SIGNW and NORMAL. -/

namespace Sys2Proof.Machine

/-- One execution of the rule of the current phase. -/
def phaseRule (s : State) : State :=
  match s.phase with
  | .idle => ruleIdle s
  | .decode => ruleDecode s
  | .signw => ruleSignw s
  | .zero => ruleZero s
  | .normal => ruleNormal s
  | .subnormal => ruleSubnormal s
  | .fastint => ruleFastint s
  | .bounds => ruleBounds s
  | .expk => ruleExpk s
  | .shifth => ruleShifth s
  | .lut => ruleLut s
  | .mull => ruleMull s
  | .mulc => ruleMulc s
  | .mulr => ruleMulr s
  | .interval => ruleInterval s
  | .shorter => ruleShorter s
  | .direct => ruleDirect s
  | .tie => ruleTie s
  | .digits => ruleDigits s
  | .layout => ruleLayout s
  | .emit => ruleEmit s
  | .done => ruleDone s
  | .fault => ruleFault s

/-- A step in which the host asks for nothing. -/
def quietStep (s : State) : State := phaseRule (beginStep (Ports.quiet s) s)

/-- At most `fuel` quiet steps, while `busy` = 1. -/
def runWhileBusy : Nat → State → State
  | 0, s => s
  | fuel + 1, s => if s.busy then runWhileBusy fuel (quietStep s) else s

/-- The step in which the host presents a word with `start` = 1. -/
def requestStep (w : Word) (s : State) : State :=
  phaseRule (beginStep { rst := false, start := true, inBits := w } s)

/-- The most steps a conversion takes after its START step: 38 with it (R90). -/
def maxStepsAfterStart : Nat := 37

/-- CONVERT of a word (R76): with `ready` = 1 the START step and then every step until the block is no longer busy; with
`ready` = 0 the one step in which the request is ignored (R80, R188; log 8). -/
def convertWord (w : Word) (s : State) : State :=
  if s.ready then runWhileBusy maxStepsAfterStart (requestStep w s) else requestStep w s

/-- CONVERT.INFNAN. -/
def execConvertInfnan (sign : BitVec 1) (mf : BitVec 23) (s : State) : Host.Outcome State Fault Refusal :=
  .next (convertWord (operandWord sign 255 mf) s)

/-- CONVERT.ZERO. -/
def execConvertZero (sign : BitVec 1) (s : State) : Host.Outcome State Fault Refusal :=
  .next (convertWord (operandWord sign 0 0) s)

/-- CONVERT.SUBNORMAL. -/
def execConvertSubnormal (sign : BitVec 1) (mf : BitVec 23) (s : State) : Host.Outcome State Fault Refusal :=
  .next (convertWord (operandWord sign 0 mf) s)

/-- CONVERT.NORMAL_FASTINT. -/
def execConvertNormalFastint (sign : BitVec 1) (ef : BitVec 8) (mf : BitVec 23) (s : State) :
    Host.Outcome State Fault Refusal := .next (convertWord (operandWord sign ef mf) s)

/-- CONVERT.NORMAL_ENGINE. -/
def execConvertNormalEngine (sign : BitVec 1) (ef : BitVec 8) (mf : BitVec 23) (s : State) :
    Host.Outcome State Fault Refusal := .next (convertWord (operandWord sign ef mf) s)

end Sys2Proof.Machine
end

