-- ==== Sys2Proof/Machine/Dispatch.lean ====
section
/-! DEFINITION. One arm per row of spec/opcode_table.json. -/

namespace Sys2Proof.Machine

def exec (i : Instr) (s : State) : Host.Outcome State Fault Refusal :=
  match i with
  | .convertInfnan sign mf => Sys2Proof.Machine.execConvertInfnan sign mf s
  | .convertZero sign => Sys2Proof.Machine.execConvertZero sign s
  | .convertSubnormal sign mf => Sys2Proof.Machine.execConvertSubnormal sign mf s
  | .convertNormalFastint sign ef mf => Sys2Proof.Machine.execConvertNormalFastint sign ef mf s
  | .convertNormalEngine sign ef mf => Sys2Proof.Machine.execConvertNormalEngine sign ef mf s
  | .idle => Sys2Proof.Machine.execIdle s
  | .decode => Sys2Proof.Machine.execDecode s
  | .signw => Sys2Proof.Machine.execSignw s
  | .zero => Sys2Proof.Machine.execZero s
  | .normal => Sys2Proof.Machine.execNormal s
  | .subnormal => Sys2Proof.Machine.execSubnormal s
  | .fastint => Sys2Proof.Machine.execFastint s
  | .bounds => Sys2Proof.Machine.execBounds s
  | .expk => Sys2Proof.Machine.execExpk s
  | .shifth => Sys2Proof.Machine.execShifth s
  | .lut => Sys2Proof.Machine.execLut s
  | .mull => Sys2Proof.Machine.execMull s
  | .mulc => Sys2Proof.Machine.execMulc s
  | .mulr => Sys2Proof.Machine.execMulr s
  | .interval => Sys2Proof.Machine.execInterval s
  | .shorter => Sys2Proof.Machine.execShorter s
  | .direct => Sys2Proof.Machine.execDirect s
  | .tie => Sys2Proof.Machine.execTie s
  | .digits => Sys2Proof.Machine.execDigits s
  | .layout => Sys2Proof.Machine.execLayout s
  | .emit => Sys2Proof.Machine.execEmit s
  | .done => Sys2Proof.Machine.execDone s
  | .fault => Sys2Proof.Machine.execFault s
  | .chr0 => Sys2Proof.Machine.execChr0 s
  | .chr1 => Sys2Proof.Machine.execChr1 s
  | .chr2 => Sys2Proof.Machine.execChr2 s
  | .chr3 => Sys2Proof.Machine.execChr3 s
  | .chr4 => Sys2Proof.Machine.execChr4 s
  | .chr5 => Sys2Proof.Machine.execChr5 s
  | .chr6 => Sys2Proof.Machine.execChr6 s
  | .chr7 => Sys2Proof.Machine.execChr7 s
  | .chr8 => Sys2Proof.Machine.execChr8 s
  | .chr9 => Sys2Proof.Machine.execChr9 s
  | .chrMinus => Sys2Proof.Machine.execChrMinus s
  | .chrPlus => Sys2Proof.Machine.execChrPlus s
  | .chrPoint => Sys2Proof.Machine.execChrPoint s
  | .chrE => Sys2Proof.Machine.execChrE s

end Sys2Proof.Machine
end

