-- ==== Sys2Proof/Machine/Sequencer.lean ====
section
/-! DEFINITION. What happens next: a step of the block under given port levels (R12, R180), a host write of its own
buffer (R186), and how a word of the opcode table is put where the next step takes it (log 6, log 10). -/

namespace Sys2Proof.Machine

/-- One step of the block: with `rst` = 1 reset overrides the phase rule (R180), else PHASE, the program counter, selects
the instruction (R24). -/
def blockStep (p : Ports) (s : State) : Host.Outcome State Fault Refusal :=
  if p.rst then .next (resetStep (beginStep p s)) else exec s.phase.instr (beginStep p s)

/-- The host writes a byte of its buffer, which R186 forbids while `busy` = 1 (log 14). -/
def hostWrite (off : BitVec 5) (b : Byte) (s : State) : Host.Outcome State Fault Refusal :=
  if s.busy then .fault (.bufferRace off) else .next { s with out := s.out.write off.toNat b }

/-- A state whose next step executes the rule of phase `p` with `start` = 0 and `rst` = 0. -/
def State.placePhase (p : Phase) (s : State) : State :=
  { s with phase := p, host := .drive (Ports.quiet s) :: s.host }

/-- A state whose next step emits the byte `b`: TXT[POS - SIGN] holds it and PHASE is EMIT. Where POS - SIGN is no place
of TXT, POS is first put at the start of the body. -/
def State.placeBodyByte (b : Byte) (s : State) : State :=
  let s1 := if 0 ≤ s.bodyIndex ∧ s.bodyIndex < 21 then s else { s with pos := s.sign.zeroExtend 5 }
  { s1 with
    txt := s1.txt.setIfInBounds s1.bodyIndex.toNat b
    phase := .emit
    host := .drive (Ports.quiet s) :: s.host }

/-- A word of the opcode table put where the next step takes it: an operand word as the host's next CONVERT, a phase code
in PHASE, a character in the body of the text. A word that is no row of the table changes nothing. -/
def State.placeTableWord (nbits w : Nat) (s : State) : State :=
  if 32 ≤ nbits then { s with host := .convert (BitVec.ofNat 32 w) :: s.host }
  else
    let b : Byte := BitVec.ofNat 8 w
    if b.toNat < 32 then
      match phaseOfCode (b.extractLsb' 0 5) with
      | .ok p => s.placePhase p
      | .error _ => s
    else
      match decodeChar b with
      | .ok _ => s.placeBodyByte b
      | .error _ => s

end Sys2Proof.Machine
end

