-- ==== Sys2Proof/Machine/Step.lean ====
section
/-! DEFINITION. The step: the host's next action decides what runs (R10, R76; log 5, log 7, log 14). -/

namespace Sys2Proof.Machine

/-- One step. With no action pending the host drives quiet ports. A CONVERT line is decoded as an operand word (R62) and
runs as one instruction (R90; log 7). -/
def step (s : State) : Host.Outcome State Fault Refusal :=
  match s.host with
  | [] => blockStep (Ports.quiet s) s
  | .drive p :: rest => blockStep p { s with host := rest }
  | .convert w :: rest => exec (decodeOperand w) { s with host := rest }
  | .write off b :: rest => hostWrite off b { s with host := rest }

/-- `s` with the instruction of a table word where the next step takes it. -/
def State.withFetchWord (s : State) (nbits w : Nat) : State := s.placeTableWord nbits w

end Sys2Proof.Machine
end

