-- ==== Sys2Proof/Machine/Reference.lean ====
section
/-! DEFINITION. The functions the spec states the block against: `engine` (R115), `layout` (R138), `convert` (R90), with
unbounded integers and no registers; and the value of a decimal numeral (R139). -/

namespace Sys2Proof.Machine.Reference

/-- The five operand classes (R62). -/
inductive OperandClass where
  | infnan | zero | subnormal | normalFastint | normalEngine
  deriving DecidableEq, Repr

/-- c of an operand (R61). -/
def operandC (w : Word) : Nat := if (expField w).toNat = 0 then (mantField w).toNat else 2 ^ 23 + (mantField w).toNat

/-- q of an operand (R61). -/
def operandQ (w : Word) : Int := if (expField w).toNat = 0 then -149 else (expField w).toNat - 150

/-- `fast` (R62). -/
def operandFast (w : Word) : Bool :=
  decide (127 ≤ (expField w).toNat) && decide ((expField w).toNat ≤ 150)
    && operandC w % 2 ^ (150 - (expField w).toNat) == 0

/-- The irregular flag (R90). -/
def operandIrr (w : Word) : Bool := (mantField w).toNat == 0 && decide (1 < (expField w).toNat)

/-- The class of an operand, in the priority of R62. -/
def classOf (w : Word) : OperandClass :=
  if (expField w).toNat = 255 then .infnan
  else if (expField w).toNat = 0 ∧ (mantField w).toNat = 0 then .zero
  else if (expField w).toNat = 0 then .subnormal
  else if operandFast w then .normalFastint
  else .normalEngine

/-- The intermediates of the engine, by DOC's names (R115). -/
structure Trace where
  cbl : Nat
  cb : Nat
  cbr : Nat
  k : Int
  h : Int
  g : Nat
  vbl : Nat
  vb : Nat
  vbr : Nat
  lower : Nat
  upper : Nat
  s : Nat
  deriving DecidableEq, Repr

/-- The first lines of `engine`, down to s (R115). -/
def trace (c : Nat) (q : Int) (irr : Bool) : Trace :=
  let cbl := 4 * c - 2 + irr.toNat
  let cb := 4 * c
  let cbr := 4 * c + 2
  let k := asr (q * 1262611 - (if irr then 524031 else 0)) 22
  let h := q + asr (-k * 1741647) 19 + 1
  let g := (pow10 (-k)).toNat
  let vbl := rop g (cbl * 2 ^ h.toNat)
  let vb := rop g (cb * 2 ^ h.toNat)
  let vbr := rop g (cbr * 2 ^ h.toNat)
  { cbl, cb, cbr, k, h, g, vbl, vb, vbr, lower := vbl + c % 2, upper := vbr - c % 2, s := vb / 4 }

/-- The rest of `engine`: the shorter attempt, the direct test, the tie-break (R115). -/
def decide3 (t : Trace) : Nat × Int :=
  let sp := t.s / 10
  let up := decide (t.lower ≤ 40 * sp)
  let wp := decide (40 * sp + 40 ≤ t.upper)
  let u := decide (t.lower ≤ 4 * t.s)
  let w := decide (4 * t.s + 4 ≤ t.upper)
  let mid := 4 * t.s + 2
  if up ≠ wp then (sp + wp.toNat, t.k + 1)
  else if u ≠ w then (t.s + w.toNat, t.k)
  else (t.s + (decide (mid < t.vb ∨ (t.vb = mid ∧ t.s % 2 = 1))).toNat, t.k)

/-- `engine(c, q, irr)`: the Decimal Result (R115). -/
def engine (c : Nat) (q : Int) (irr : Bool) : Nat × Int := decide3 (trace c q irr)

/-- The Decimal Result of an operand that is neither zero nor INFNAN: the integer on the fast path, else the engine's
(R86, R90). -/
def decimalResult (w : Word) : Nat × Int :=
  if operandFast w then (operandC w / 2 ^ (150 - (expField w).toNat), 0)
  else engine (operandC w) (operandQ w) (operandIrr w)

/-- The characters of the decimal digits of a number, most significant first. -/
def decimal (n : Nat) : List Byte := (Nat.digits 10 n).reverse.map chr

/-- A digit string without its trailing "0" characters. -/
def trimZeros (ds : List Byte) : List Byte := (ds.reverse.dropWhile (· == 0x30)).reverse

/-- `layout(sig, exp)` (R138). -/
def layout (sig : Nat) (exp : Int) : List Byte :=
  let ds := decimal sig
  let ks := trimZeros ds
  let dpp : Int := ds.length + exp
  let se := dpp - 1
  if se < -6 ∨ 20 < se then
    ks.take 1 ++ (if 1 < ks.length then 0x2E :: ks.drop 1 else [])
      ++ [0x65, if 0 ≤ se then 0x2B else 0x2D] ++ decimal se.natAbs
  else if ds.length ≤ dpp then ds ++ List.replicate (dpp.toNat - ds.length) 0x30
  else if 0 < dpp then ds.take dpp.toNat ++ (if dpp.toNat < ks.length then 0x2E :: ks.drop dpp.toNat else [])
  else [0x30, 0x2E] ++ List.replicate (-dpp).toNat 0x30 ++ ks

/-- The sign character, where there is one (R90). -/
def signText (w : Word) : List Byte := if signField w = 1 then [0x2D] else []

/-- The text without the sign character, of an operand that is not INFNAN (R90). -/
def body (w : Word) : List Byte :=
  if classOf w = .zero then [0x30] else layout (decimalResult w).1 (decimalResult w).2

/-- `convert(w)`: the byte string; LEN is its length (R90). -/
def convert (w : Word) : List Byte := if classOf w = .infnan then [] else signText w ++ body w

/-- The steps of a conversion, its START step and every step up to the one after which `done` = 1 (R191). -/
def steps (w : Word) : Nat :=
  let t := trace (operandC w) (operandQ w) (operandIrr w)
  let sp := t.s / 10
  match classOf w with
  | .infnan => 2
  | .zero => 5
  | .normalFastint => 7 + (body w).length
  | .subnormal | .normalEngine =>
    if decide (t.lower ≤ 40 * sp) ≠ decide (40 * sp + 40 ≤ t.upper) then 15 + (body w).length
    else if decide (t.lower ≤ 4 * t.s) ≠ decide (4 * t.s + 4 ≤ t.upper) then 16 + (body w).length
    else 17 + (body w).length

/-! The value of a numeral, to say that the layout loses nothing (R139). -/

/-- The value of a digit character. -/
def digitValue (b : Byte) : Nat := b.toNat - 0x30

/-- The value of a string of digit characters read as an integer. -/
def digitsValue (ds : List Byte) : Nat := ds.foldl (fun v b => 10 * v + digitValue b) 0

/-- The value of a numeral without exponent: integer digits, then perhaps a point and a fraction. -/
def fixedValue (t : List Byte) : ℚ :=
  let int := t.takeWhile (· != 0x2E)
  let frac := (t.dropWhile (· != 0x2E)).drop 1
  digitsValue (int ++ frac) / 10 ^ frac.length

/-- The value of an exponent: a sign character and digits. -/
def exponentValue (t : List Byte) : Int :=
  if t.head? = some 0x2D then -(digitsValue (t.drop 1)) else digitsValue (t.drop 1)

/-- The number a text without sign denotes, in the reading of the grammar R65: a fixed numeral, then perhaps "e" and an
exponent. -/
def numeralValue (t : List Byte) : ℚ :=
  let mant := t.takeWhile (· != 0x65)
  let rest := t.dropWhile (· != 0x65)
  if rest = [] then fixedValue mant else fixedValue mant * 10 ^ exponentValue (rest.drop 1)

end Sys2Proof.Machine.Reference
end

