-- ==== Sys2Proof/Safety.lean ====
section
/-! DEFINITION. The terms claims use: what OUT holds, the invariant of a run (R28, R36, R56, R120, R121), iterated
steps. -/

namespace Sys2Proof.Safety

open Sys2Proof.Machine

/-- The byte the host reads at an offset of OUT; none where nothing has been written. -/
abbrev outAt (s : State) (off : Nat) : Option Byte := s.out.read? off

/-- OUT holds these bytes at offset 0 and up. -/
def Holds (s : State) (t : List Byte) : Prop := ∀ i (h : i < t.length), outAt s i = some t[i]

/-- Every byte of OUT reads the same in both states. -/
def SameOut (s t : State) : Prop := ∀ a, outAt t a = outAt s a

/-- Every byte of OUT but the one at `off` reads the same in both states. -/
def SameOutExceptAt (off : Nat) (s t : State) : Prop := ∀ a, a ≠ off → outAt t a = outAt s a

/-- `n` quiet steps: the host asks for nothing. -/
def quietSteps : Nat → State → State
  | 0, s => s
  | n + 1, s => quietSteps n (quietStep s)

/-- CONVERT as the spec states it for one instruction and its operand word (R90): from a ready block with FAULT = 0 the
instruction answers the state that the START step and the further steps of R191's table, at most 37, reach; there PHASE is
DONE, FAULT is 0, LEN is the length of `convert(w)`, OUT holds `convert(w)` at offset 0 and up and every other byte of OUT is as it was. -/
def Converts (i : Instr) (w : Word) : Prop :=
  ∀ s : State, s.ready = true → s.fault = 0 → ∃ t m, exec i s = .next t ∧
    m + 1 = Reference.steps w ∧ m ≤ 37 ∧ t = quietSteps m (requestStep w s) ∧ t.phase = .done ∧ t.fault = 0 ∧ t.cause = s.cause ∧ t.raw = w ∧
    t.len.toNat = (Reference.convert w).length ∧ Holds t (Reference.convert w) ∧
    ∀ a, (Reference.convert w).length ≤ a → outAt t a = outAt s a

/-- The phase graph (R74) as a function: the one phase that follows `s.phase` in a step with port levels `p`. -/
def successor (p : Ports) (s : State) : Phase :=
  if p.rst then .idle else
  match s.phase with
  | .idle => if p.start then .decode else .idle
  | .decode => if s.raw.toNat / 2 ^ 23 % 256 = 255 then .done else .signw
  | .signw => if s.ef = 0 ∧ s.mf = 0 then .zero else if s.ef ≠ 0 then .normal else .subnormal
  | .zero => .emit
  | .normal =>
    if 127 ≤ s.ef.toNat ∧ s.ef.toNat ≤ 150 ∧ (2 ^ 23 + s.mf.toNat) % 2 ^ (150 - s.ef.toNat) = 0 then .fastint
    else .bounds
  | .subnormal => .bounds
  | .fastint => .digits
  | .bounds => .expk
  | .expk => .shifth
  | .shifth => .lut
  | .lut =>
    if -31 ≤ -s.k.toInt ∧ -s.k.toInt ≤ 45 ∧ 1 ≤ s.h.toNat ∧ s.h.toNat ≤ 4 then .mull else .fault
  | .mull => .mulc
  | .mulc => .mulr
  | .mulr => .interval
  | .interval => .shorter
  | .shorter =>
    if (s.lower.toNat ≤ 40 * (s.sReg.toNat / 10)) ↔ (40 * (s.sReg.toNat / 10) + 40 ≤ s.upper.toNat) then .direct
    else .digits
  | .direct => if (s.lower.toNat ≤ 4 * s.sReg.toNat) ↔ (4 * s.sReg.toNat + 4 ≤ s.upper.toNat) then .tie else .digits
  | .tie => .digits
  | .digits => .layout
  | .layout => .emit
  | .emit => if (s.pos.toNat : Int) - s.sign.toNat + 1 = s.tlen.toNat then .done else .emit
  | .done => if p.start then .decode else .done
  | .fault => .fault

/-! The invariant, register group by register group: each register holds what the reference functions give for RAW. -/

/-- The fields of RAW are extracted, RAW is not INFNAN, LEN is still 0 (R81). -/
def Decomposed (s : State) : Prop :=
  s.sign = signField s.raw ∧ s.ef = expField s.raw ∧ s.mf = mantField s.raw ∧
    Reference.classOf s.raw ≠ .infnan ∧ s.len = 0

/-- SIGNW has run: POS = SIGN and "-" stands at offset 0 when the sign is set (R82). -/
def Signed (s : State) : Prop :=
  Decomposed s ∧ s.pos.toNat = (Reference.signText s.raw).length ∧ Holds s (Reference.signText s.raw)

/-- C and Q are assembled (R84, R85). -/
def Assembled (s : State) : Prop :=
  Signed s ∧ Reference.classOf s.raw ≠ .zero ∧ s.c.toNat = Reference.operandC s.raw ∧
    s.q.toInt = Reference.operandQ s.raw

/-- The trace of the operand in RAW (R115). -/
def traceOf (s : State) : Reference.Trace :=
  Reference.trace (Reference.operandC s.raw) (Reference.operandQ s.raw) (Reference.operandIrr s.raw)

/-- The operand in RAW goes through the engine. -/
def InEngine (s : State) : Prop := Assembled s ∧ Reference.operandFast s.raw = false

/-- BOUNDS has run. -/
def Bounded (s : State) : Prop :=
  InEngine s ∧ s.irr = BitVec.ofBool (Reference.operandIrr s.raw) ∧ s.cbl.toNat = (traceOf s).cbl ∧
    s.cb.toNat = (traceOf s).cb ∧ s.cbr.toNat = (traceOf s).cbr

/-- EXPK has run. -/
def Exponented (s : State) : Prop := Bounded s ∧ s.k.toInt = (traceOf s).k

/-- SHIFTH has run. -/
def Aligned (s : State) : Prop := Exponented s ∧ (s.h.toNat : Int) = (traceOf s).h

/-- LUT has run. -/
def LookedUp (s : State) : Prop := Aligned s ∧ s.g.toNat = (traceOf s).g

/-- INTERVAL has run. -/
def Intervalled (s : State) : Prop :=
  LookedUp s ∧ s.vb.toNat = (traceOf s).vb ∧ s.lower.toNat = (traceOf s).lower ∧
    s.upper.toNat = (traceOf s).upper ∧ s.sReg.toNat = (traceOf s).s

/-- SHORTER has not decided. -/
def NotShorter (s : State) : Prop :=
  decide ((traceOf s).lower ≤ 40 * ((traceOf s).s / 10)) = decide (40 * ((traceOf s).s / 10) + 40 ≤ (traceOf s).upper)

/-- DIRECT has not decided. -/
def NotDirect (s : State) : Prop :=
  decide ((traceOf s).lower ≤ 4 * (traceOf s).s) = decide (4 * (traceOf s).s + 4 ≤ (traceOf s).upper)

/-- The Decimal Result stands in SIG and EXP. -/
def Decided (s : State) : Prop :=
  Signed s ∧ Reference.classOf s.raw ≠ .zero ∧ s.sig.toNat = (Reference.decimalResult s.raw).1 ∧
    s.exp.toInt = (Reference.decimalResult s.raw).2

/-- DIGITS has run. -/
def Digited (s : State) : Prop :=
  Decided s ∧ s.n.toNat = (Reference.decimal s.sig.toNat).length ∧
    s.nk.toNat = (Reference.trimZeros (Reference.decimal s.sig.toNat)).length ∧
    ∀ j, j < s.n.toNat → some (s.digit j) = (Reference.decimal s.sig.toNat)[j]?

/-- The body is staged in TXT and its first POS - SIGN bytes are written: OUT holds a prefix of the result, not all of
it (R56). -/
def Emitting (s : State) : Prop :=
  s.sign = signField s.raw ∧ s.len = 0 ∧ Reference.classOf s.raw ≠ .infnan ∧
    s.tlen.toNat = (Reference.body s.raw).length ∧ (Reference.body s.raw).length ≤ 21 ∧
    (∀ i, i < s.tlen.toNat → s.txt[i]? = (Reference.body s.raw)[i]?) ∧
    s.sign.toNat ≤ s.pos.toNat ∧ s.pos.toNat < (Reference.convert s.raw).length ∧
    Holds s ((Reference.convert s.raw).take s.pos.toNat)

/-- What holds in each phase: every register that the phase reads has been written by this conversion (R36). -/
def PhaseInv (s : State) : Prop :=
  match s.phase with
  | .idle => s.len = 0 ∧ s.pos = 0
  | .decode => s.len = 0 ∧ s.pos = 0
  | .signw => Decomposed s ∧ s.pos = 0
  | .zero => Signed s ∧ Reference.classOf s.raw = .zero
  | .normal => Signed s ∧ Reference.classOf s.raw ≠ .zero ∧ (expField s.raw).toNat ≠ 0
  | .subnormal => Signed s ∧ Reference.classOf s.raw ≠ .zero ∧ (expField s.raw).toNat = 0
  | .fastint => Assembled s ∧ Reference.operandFast s.raw = true
  | .bounds => InEngine s
  | .expk => Bounded s
  | .shifth => Exponented s
  | .lut => Aligned s
  | .mull => LookedUp s
  | .mulc => LookedUp s ∧ s.vbl.toNat = (traceOf s).vbl
  | .mulr => LookedUp s ∧ s.vbl.toNat = (traceOf s).vbl ∧ s.vb.toNat = (traceOf s).vb
  | .interval =>
    LookedUp s ∧ s.vbl.toNat = (traceOf s).vbl ∧ s.vb.toNat = (traceOf s).vb ∧ s.vbr.toNat = (traceOf s).vbr
  | .shorter => Intervalled s
  | .direct => Intervalled s ∧ NotShorter s
  | .tie => Intervalled s ∧ NotShorter s ∧ NotDirect s
  | .digits => Decided s
  | .layout => Digited s
  | .emit => Emitting s
  | .done => s.len.toNat = (Reference.convert s.raw).length ∧ s.pos = s.len
  | .fault => False

/-- The invariant of a run: OUT is in canonical form, no ContractFault has been taken, and the phase's registers hold
what the reference functions give. -/
def RunInvariant (s : State) : Prop := Memory.wf s.out = true ∧ s.fault = 0 ∧ s.cause = 0 ∧ PhaseInv s

end Sys2Proof.Safety
end

