-- ==== Sys2Proof/Certificates/Slice0/Obligations.lean ====
section
/-! DEFINITION. The statements for the provers. -/

open Sys2Proof Sys2Proof.Machine Sys2Proof.Safety

/-! ## Encoding -/

/-- Decoding the encoding of any well-formed instruction gives it back: R60, R62 for the operand rows, R72 for the
phases, R70 for the characters. How a word stands in bytes, and that PHASE codes and characters share the one-byte words,
is the model's choice (log 10). -/
def Obligations.DecodeOfEncodeIsTheInstruction : Prop :=
  ∀ i : Instr, WellFormed i → decodeBytes (encode i) = .ok i

/-- What the decoder answers is well-formed and encodes to the bytes it was read from: no two words stand for one
instruction and no bit of a word is dropped. The layout in bytes is the model's choice (log 10). -/
def Obligations.DecodedBytesReencode : Prop :=
  ∀ (bs : List Byte) (i : Instr), decodeBytes bs = .ok i → WellFormed i ∧ encode i = bs

/-- Words with the codes of R70 and R72 and operand words with the fields of R60 decode to their rows. The layout of the
one-byte words is the model's choice (log 10), not a rule's: a 5-bit PHASE code stands in a byte whose upper bits are 0, and
a byte below 32 is read as a PHASE code, any other as a character, so that the byte 23 is rejected as a reserved PHASE code
(R75) and the byte 32 as no character (R70). -/
def Obligations.SpecWordsDecode : Prop :=
  decodeBytes [0b00000010] = .ok .signw ∧
  decodeBytes [0b00001010] = .ok .lut ∧
  decodeBytes [0b00010100] = .ok .emit ∧
  decodeBytes [0b00101101] = .ok .chrMinus ∧
  decodeBytes [0b01100101] = .ok .chrE ∧
  decodeOperand 0b0_10000101_10010000000000000000000 = .convertNormalFastint 0 133 0x480000 ∧
  decodeOperand 0b1_01111011_10011001100110011001101 = .convertNormalEngine 1 123 0x4CCCCD ∧
  decodeBytes [0b00010111] = .error (.reservedPhase 23) ∧
  decodeBytes [0b00100000] = .error (.notACharacter 32)

/-- Every operand word has the class whose condition it meets, with the priority of R62, and its fields are those of
R60. -/
def Obligations.EveryOperandWordHasItsClass : Prop :=
  ∀ w : Word,
    let sg := w.toNat / 2 ^ 31;
    let ef := w.toNat / 2 ^ 23 % 256;
    let mf := w.toNat % 2 ^ 23;
    let fast := 127 ≤ ef ∧ ef ≤ 150 ∧ mf % 2 ^ (150 - ef) = 0;
    match decodeOperand w with
    | .convertInfnan sign m => ef = 255 ∧ sign.toNat = sg ∧ m.toNat = mf
    | .convertZero sign => w.toNat % 2 ^ 31 = 0 ∧ sign.toNat = sg
    | .convertSubnormal sign m => ef = 0 ∧ mf ≠ 0 ∧ sign.toNat = sg ∧ m.toNat = mf
    | .convertNormalFastint sign e m => fast ∧ sign.toNat = sg ∧ e.toNat = ef ∧ m.toNat = mf
    | .convertNormalEngine sign e m =>
      ef ≠ 0 ∧ ef ≠ 255 ∧ ¬ fast ∧ sign.toNat = sg ∧ e.toNat = ef ∧ m.toNat = mf
    | _ => False

/-! ## A step runs the decoded instruction -/

/-- With no action pending, or port levels without `rst`, the step runs the instruction that PHASE's code decodes to
(R24, R72), on the state in which the ports have their levels; a CONVERT line runs the instruction its word decodes to.
The host's actions, the transaction as one step and the bytes of its word are the model's choice (log 5, log 7, log 10). -/
def Obligations.StepRunsTheDecodedInstruction : Prop :=
  (∀ (s : State) (i : Instr), decodePhase s.phase.code = .ok i → s.host = [] →
    step s = exec i (beginStep (Ports.quiet s) s)) ∧
  (∀ (s : State) (i : Instr) (p : Ports) (rest : List HostAction), decodePhase s.phase.code = .ok i →
    s.host = .drive p :: rest → p.rst = false → step s = exec i (beginStep p { s with host := rest })) ∧
  (∀ (s : State) (i : Instr) (w : Word) (rest : List HostAction), decodeBytes (bytesOfWord w) = .ok i →
    s.host = .convert w :: rest → step s = exec i { s with host := rest })

/-- In EMIT the step runs the character that the next byte of the body decodes to (R70, R140; the meaning of the
character rows is the model's, log 9, and so is the reading of a byte of 32 or more as a character, log 10). -/
def Obligations.EmitStepRunsTheDecodedCharacter : Prop :=
  ∀ (s : State) (i : Instr) (b : Byte) (p : Ports) (rest : List HostAction),
    s.phase = .emit → s.host = .drive p :: rest → p.rst = false → s.sign.toNat ≤ s.pos.toNat →
    s.txt[s.pos.toNat - s.sign.toNat]? = some b → decodeBytes [b] = .ok i → 32 ≤ b.toNat →
    step s = exec i (beginStep p { s with host := rest })

/-! ## The driver -/

/-- R80: in IDLE and DONE `start` = 1 takes the operand and `start` = 0 changes nothing; in every other phase `start` and
`in_bits` are ignored. -/
def Obligations.StartTakesTheOperandOnlyWhenReady : Prop :=
  (∀ s : State, s.start = true →
    exec .idle s = .next { s with raw := s.inBits, pos := 0, len := 0, phase := .decode } ∧
    exec .done s = .next { s with raw := s.inBits, pos := 0, len := 0, phase := .decode }) ∧
  (∀ s : State, s.start = false → exec .idle s = .next s ∧ exec .done s = .next s) ∧
  (∀ (p : Phase) (s t : State) (a : Bool) (b : Word), p ≠ .idle → p ≠ .done → exec p.instr s = .next t →
    exec p.instr { s with start := a, inBits := b } = .next { t with start := a, inBits := b })

/-- R81: the three fields by their bit positions; an all-ones exponent field ends the conversion with LEN = 0, before
anything is written. -/
def Obligations.DecodeExtractsFieldsOrEndsUnsupported : Prop :=
  ∀ s : State, ∃ t, exec .decode s = .next t ∧
    t.sign.toNat = s.raw.toNat / 2 ^ 31 ∧ t.ef.toNat = s.raw.toNat / 2 ^ 23 % 256 ∧
    t.mf.toNat = s.raw.toNat % 2 ^ 23 ∧
    t = (if s.raw.toNat / 2 ^ 23 % 256 = 255 then
          { s with sign := t.sign, ef := t.ef, mf := t.mf, len := 0, phase := .done }
        else { s with sign := t.sign, ef := t.ef, mf := t.mf, phase := .signw }) ∧
    SameOut s t

/-- R82: "-" at offset POS exactly when SIGN = 1, then the dispatch among zero, normal and subnormal. -/
def Obligations.SignwWritesMinusAndDispatches : Prop :=
  ∀ s : State, s.pos.toNat < 31 →
    let next : Phase := if s.ef = 0 ∧ s.mf = 0 then .zero else if s.ef ≠ 0 then .normal else .subnormal;
    (s.sign = 1 → ∃ t, exec .signw s = .next t ∧ outAt t s.pos.toNat = some 0x2D ∧
      SameOutExceptAt s.pos.toNat s t ∧ t.pos.toNat = s.pos.toNat + 1 ∧
      t = { s with out := t.out, wrEn := true, wrOff := s.pos, wrData := 0x2D, pos := t.pos, phase := next }) ∧
    (s.sign = 0 → ∃ t, exec .signw s = .next t ∧ t = { s with phase := next } ∧ SameOut s t)

/-- R83: the body is the one character "0". -/
def Obligations.ZeroStagesOneZero : Prop :=
  ∀ s : State, ∃ t, exec .zero s = .next t ∧ t.txt[0]? = some 0x30 ∧ t.tlen.toNat = 1 ∧
    t = { s with txt := t.txt, tlen := t.tlen, phase := .emit } ∧ SameOut s t

/-- R84: C and Q of a normal operand, and the test of the fast integer path. -/
def Obligations.NormalAssemblesAndTestsFastPath : Prop :=
  ∀ s : State, ∃ t, exec .normal s = .next t ∧
    t.c.toNat = 2 ^ 23 + s.mf.toNat ∧ t.q.toInt = (s.ef.toNat : Int) - 150 ∧
    t = { s with
          c := t.c
          q := t.q
          phase := if t.q.toInt ≤ 0 ∧ -23 ≤ t.q.toInt ∧ t.c.toNat % 2 ^ (-t.q.toInt).toNat = 0 then .fastint
            else .bounds } ∧
    SameOut s t

/-- R85. -/
def Obligations.SubnormalAssembles : Prop :=
  ∀ s : State, ∃ t, exec .subnormal s = .next t ∧ t.c.toNat = s.mf.toNat ∧ t.q.toInt = -149 ∧
    t = { s with c := t.c, q := t.q, phase := .bounds } ∧ SameOut s t

/-- R86's register transfer, for the rule's operands Q = -23..0. -/
def Obligations.FastintShiftsTheSignificand : Prop :=
  ∀ s : State, -23 ≤ s.q.toInt → s.q.toInt ≤ 0 → ∃ t, exec .fastint s = .next t ∧
    t.sig.toNat = s.c.toNat / 2 ^ (-s.q.toInt).toNat ∧ t.exp.toInt = 0 ∧
    t = { s with sig := t.sig, exp := t.exp, phase := .digits } ∧ SameOut s t

/-! ## The engine -/

/-- R101's register transfer: the irregular flag and the three scaled boundaries, for C >= 1. -/
def Obligations.BoundsScalesTheNeighbours : Prop :=
  ∀ s : State, 1 ≤ s.c.toNat → ∃ t, exec .bounds s = .next t ∧
    t.irr.toNat = (if s.mf = 0 ∧ 1 < s.ef.toNat then 1 else 0) ∧
    t.cbl.toNat + 2 = 4 * s.c.toNat + t.irr.toNat ∧ t.cb.toNat = 4 * s.c.toNat ∧
    t.cbr.toNat = 4 * s.c.toNat + 2 ∧
    t = { s with irr := t.irr, cbl := t.cbl, cb := t.cb, cbr := t.cbr, phase := .expk } ∧ SameOut s t

/-- R102: K by multiply and shift, and that it is exactly the floor of log10 of 2^Q, of (3/4) 2^Q when IRR is 1. -/
def Obligations.ExpkIsTheExactDecimalExponent : Prop :=
  ∀ s : State, -149 ≤ s.q.toInt → s.q.toInt ≤ 104 → ∃ t, exec .expk s = .next t ∧
    t.k.toInt = (s.q.toInt * 1262611 - (if s.irr = 1 then 524031 else 0)) / 2 ^ 22 ∧
    (s.irr = 0 → (10 : ℚ) ^ t.k.toInt ≤ 2 ^ s.q.toInt ∧ (2 : ℚ) ^ s.q.toInt < 10 ^ (t.k.toInt + 1)) ∧
    (s.irr = 1 → (10 : ℚ) ^ t.k.toInt ≤ 3 / 4 * 2 ^ s.q.toInt ∧
      3 / 4 * (2 : ℚ) ^ s.q.toInt < 10 ^ (t.k.toInt + 1)) ∧
    t = { s with k := t.k, phase := .shifth } ∧ SameOut s t

/-- R104: for every operand the engine sees K is in -45..31, so the index -K is in the table. -/
def Obligations.DecimalExponentStaysInTheTable : Prop :=
  ∀ w : Word, Reference.classOf w = .subnormal ∨ Reference.classOf w = .normalEngine →
    let k := (Reference.trace (Reference.operandC w) (Reference.operandQ w) (Reference.operandIrr w)).k;
    -45 ≤ k ∧ k ≤ 31 ∧ -31 ≤ -k ∧ -k ≤ 45

/-- R105: H is Q + floor(log2(10^(-K))) + 1, floor and not ceil, and for the K of a regular or an irregular Q it is
in 1..4. -/
def Obligations.ShifthAlignsWithFloor : Prop :=
  ∀ s : State, -149 ≤ s.q.toInt → s.q.toInt ≤ 104 →
    (s.k.toInt = s.q.toInt * 1262611 / 2 ^ 22 ∨
      (-148 ≤ s.q.toInt ∧ s.k.toInt = (s.q.toInt * 1262611 - 524031) / 2 ^ 22)) →
    let f := -s.k.toInt * 1741647 / 2 ^ 19;
    (2 : ℚ) ^ f ≤ 10 ^ (-s.k.toInt) ∧ (10 : ℚ) ^ (-s.k.toInt) < 2 ^ (f + 1) ∧
    ∃ t, exec .shifth s = .next t ∧ (t.h.toNat : Int) = s.q.toInt + f + 1 ∧ 1 ≤ t.h.toNat ∧ t.h.toNat ≤ 4 ∧
      t = { s with h := t.h, phase := .lut } ∧ SameOut s t

/-- R106 and R163: LUT reads the entry, or raises ContractFault with the cause of the first test that fails, which
writes FAULT, CAUSE and PHASE and nothing else. -/
def Obligations.LutReadsOrRaisesContractFault : Prop :=
  ∀ s : State,
    (-s.k.toInt < -31 ∨ 45 < -s.k.toInt →
      exec .lut s = .next { s with fault := 1, cause := 1, phase := .fault }) ∧
    (-31 ≤ -s.k.toInt → -s.k.toInt ≤ 45 → s.h.toNat < 1 ∨ 4 < s.h.toNat →
      exec .lut s = .next { s with fault := 1, cause := 2, phase := .fault }) ∧
    (-31 ≤ -s.k.toInt → -s.k.toInt ≤ 45 → 1 ≤ s.h.toNat → s.h.toNat ≤ 4 →
      exec .lut s = .next { s with g := pow10 (-s.k.toInt), phase := .mull }) ∧
    (∀ t, exec .lut s = .next t → SameOut s t)

/-- R41 and R45: with r(e) = floor(log2(10^e)) - 63 every entry is the ceiling of 10^e 2^(-r), a 64-bit number of at least
2^63, exact for e = 0..27 and for no other e. -/
def Obligations.TableEntriesAreTheCeilings : Prop :=
  ∀ e : Int, -31 ≤ e → e ≤ 45 →
    let r := e * 1741647 / 2 ^ 19 - 63;
    let g : ℚ := (pow10 e).toNat;
    (2 : ℚ) ^ (r + 63) ≤ 10 ^ e ∧ (10 : ℚ) ^ e < 2 ^ (r + 64) ∧
    2 ^ 63 ≤ (pow10 e).toNat ∧ (g - 1) * 2 ^ r < 10 ^ e ∧ 10 ^ e ≤ g * 2 ^ r ∧
    (g * 2 ^ r = 10 ^ e ↔ 0 ≤ e ∧ e ≤ 27)

/-- R46. -/
def Obligations.PairsAreTwoDigitCharacters : Prop :=
  ∀ i : Nat, i ≤ 99 → (pair i).1.toNat = 0x30 + i / 10 ∧ (pair i).2.toNat = 0x30 + i % 10

/-- R107 to R110: MULL, MULC and MULR each take the high half of the exact product of G and the shifted boundary, its bit
0 forced to 1 when bits 63:32 of the low half exceed 1. -/
def Obligations.MultipliersRoundToOdd : Prop :=
  ∀ s : State,
    let odd (p : Nat) : Nat :=
      if p % 2 ^ 64 / 2 ^ 32 > 1 ∧ p / 2 ^ 64 % 2 = 0 then p / 2 ^ 64 + 1 else p / 2 ^ 64;
    (s.cbl.toNat * 2 ^ s.h.toNat < 2 ^ 30 → ∃ t, exec .mull s = .next t ∧
      t.vbl.toNat = odd (s.g.toNat * (s.cbl.toNat * 2 ^ s.h.toNat)) ∧
      t = { s with vbl := t.vbl, phase := .mulc } ∧ SameOut s t) ∧
    (s.cb.toNat * 2 ^ s.h.toNat < 2 ^ 30 → ∃ t, exec .mulc s = .next t ∧
      t.vb.toNat = odd (s.g.toNat * (s.cb.toNat * 2 ^ s.h.toNat)) ∧
      t = { s with vb := t.vb, phase := .mulr } ∧ SameOut s t) ∧
    (s.cbr.toNat * 2 ^ s.h.toNat < 2 ^ 30 → ∃ t, exec .mulr s = .next t ∧
      t.vbr.toNat = odd (s.g.toNat * (s.cbr.toNat * 2 ^ s.h.toNat)) ∧
      t = { s with vbr := t.vbr, phase := .interval } ∧ SameOut s t)

/-- R111's register transfer: closed ends for an even C, open ends for an odd C, and s. -/
def Obligations.IntervalClosesForEvenSignificands : Prop :=
  ∀ s : State, s.vbl.toNat < 2 ^ 30 → 1 ≤ s.vbr.toNat → s.vb.toNat < 2 ^ 30 → ∃ t, exec .interval s = .next t ∧
    t.lower.toNat = s.vbl.toNat + s.c.toNat % 2 ∧ t.upper.toNat + s.c.toNat % 2 = s.vbr.toNat ∧
    t.sReg.toNat = s.vb.toNat / 4 ∧
    t = { s with lower := t.lower, upper := t.upper, sReg := t.sReg, phase := .shorter } ∧ SameOut s t

/-- R112's register transfer: the shorter candidate that alone is inside is the result, else DIRECT follows. -/
def Obligations.ShorterTakesTheOneCandidateInside : Prop :=
  ∀ s : State, s.k.toInt ≤ 31 →
    let sp := s.sReg.toNat / 10;
    let up := s.lower.toNat ≤ 40 * sp;
    let wp := 40 * sp + 40 ≤ s.upper.toNat;
    (up ∧ ¬ wp → ∃ t, exec .shorter s = .next t ∧ t.sig.toNat = sp ∧ t.exp.toInt = s.k.toInt + 1 ∧
      t = { s with sig := t.sig, exp := t.exp, phase := .digits } ∧ SameOut s t) ∧
    (¬ up ∧ wp → ∃ t, exec .shorter s = .next t ∧ t.sig.toNat = sp + 1 ∧ t.exp.toInt = s.k.toInt + 1 ∧
      t = { s with sig := t.sig, exp := t.exp, phase := .digits } ∧ SameOut s t) ∧
    ((up ↔ wp) → exec .shorter s = .next { s with phase := .direct })

/-- R113's register transfer: the direct candidate that alone is inside is the result, else TIE follows. -/
def Obligations.DirectTakesTheOneCandidateInside : Prop :=
  ∀ s : State,
    let u := s.lower.toNat ≤ 4 * s.sReg.toNat;
    let w := 4 * s.sReg.toNat + 4 ≤ s.upper.toNat;
    (u ∧ ¬ w → ∃ t, exec .direct s = .next t ∧ t.sig.toNat = s.sReg.toNat ∧
      t = { s with sig := t.sig, exp := s.k, phase := .digits } ∧ SameOut s t) ∧
    (¬ u ∧ w → ∃ t, exec .direct s = .next t ∧ t.sig.toNat = s.sReg.toNat + 1 ∧
      t = { s with sig := t.sig, exp := s.k, phase := .digits } ∧ SameOut s t) ∧
    ((u ↔ w) → exec .direct s = .next { s with phase := .tie })

/-- R114's register transfer: VB against 4S + 2, and the even candidate on equality. -/
def Obligations.TieBreaksToNearestThenEven : Prop :=
  ∀ s : State, ∃ t, exec .tie s = .next t ∧
    t.sig.toNat = s.sReg.toNat +
      (if 4 * s.sReg.toNat + 2 < s.vb.toNat ∨ (s.vb.toNat = 4 * s.sReg.toNat + 2 ∧ s.sReg.toNat % 2 = 1) then 1
      else 0) ∧
    (s.vb.toNat = 4 * s.sReg.toNat + 2 → t.sig.toNat % 2 = 0) ∧
    t = { s with sig := t.sig, exp := s.k, phase := .digits } ∧ SameOut s t

/-- On the scale of VB the decimal that SHORTER, DIRECT or TIE chooses lies in the rounding interval, and TIE's is
nearest to VB (R111 to R114). -/
def Obligations.ChosenDecimalIsInsideTheInterval : Prop :=
  ∀ s t : State, s.sReg.toNat = s.vb.toNat / 4 → s.lower.toNat ≤ s.vb.toNat → s.vb.toNat ≤ s.upper.toNat →
    (exec .shorter s = .next t → t.phase = .digits →
      s.lower.toNat ≤ 40 * t.sig.toNat ∧ 40 * t.sig.toNat ≤ s.upper.toNat) ∧
    (exec .direct s = .next t → t.phase = .digits →
      s.lower.toNat ≤ 4 * t.sig.toNat ∧ 4 * t.sig.toNat ≤ s.upper.toNat) ∧
    (s.lower.toNat ≤ 4 * s.sReg.toNat → 4 * s.sReg.toNat + 4 ≤ s.upper.toNat → exec .tie s = .next t →
      s.lower.toNat ≤ 4 * t.sig.toNat ∧ 4 * t.sig.toNat ≤ s.upper.toNat ∧
      4 * t.sig.toNat ≤ s.vb.toNat + 2 ∧ s.vb.toNat ≤ 4 * t.sig.toNat + 2)

/-! ## The layout -/

/-- R130: N is the number of decimal digits of SIG, DIG holds them with the least significant in DIG[8], and NK counts
them without the trailing zeros. -/
def Obligations.DigitsAreTheDecimalDigits : Prop :=
  ∀ s : State, 1 ≤ s.sig.toNat → s.sig.toNat < 10 ^ 9 → ∃ t, exec .digits s = .next t ∧
    1 ≤ t.n.toNat ∧ t.n.toNat ≤ 9 ∧ 10 ^ (t.n.toNat - 1) ≤ s.sig.toNat ∧ s.sig.toNat < 10 ^ t.n.toNat ∧
    (∀ j, j < t.n.toNat →
      t.dig[9 - t.n.toNat + j]? = some (BitVec.ofNat 8 (0x30 + s.sig.toNat / 10 ^ (t.n.toNat - 1 - j) % 10))) ∧
    1 ≤ t.nk.toNat ∧ t.nk.toNat ≤ t.n.toNat ∧
    s.sig.toNat % 10 ^ (t.n.toNat - t.nk.toNat) = 0 ∧
    s.sig.toNat / 10 ^ (t.n.toNat - t.nk.toNat) % 10 ≠ 0 ∧
    t = { s with dig := t.dig, n := t.n, nk := t.nk, phase := .layout } ∧ SameOut s t

/-- R131's decision: the decimal point, the scientific exponent and the layout, scientific exactly when SE < -6 or
SE > 20. -/
def Obligations.LayoutDecidesByScientificExponent : Prop :=
  ∀ s : State, 1 ≤ s.n.toNat → s.n.toNat ≤ 9 → -45 ≤ s.exp.toInt → s.exp.toInt ≤ 32 →
    ∃ t, exec .layout s = .next t ∧ t.dpp.toInt = s.n.toNat + s.exp.toInt ∧ t.se.toInt = t.dpp.toInt - 1 ∧
      t.mode = (if t.se.toInt < -6 ∨ 20 < t.se.toInt then .sci
        else if (s.n.toNat : Int) ≤ t.dpp.toInt then .fixedInt
        else if 0 < t.dpp.toInt then .fixedFrac else .fixedSmall) ∧
      t = { s with
            dpp := t.dpp, se := t.se, mode := t.mode, txt := t.txt, tlen := t.tlen, phase := .emit } ∧
      SameOut s t

/-- R133: `int_text`. -/
def Obligations.IntTextPadsWithZeros : Prop :=
  ∀ (s : State) (dpp : Nat), 1 ≤ s.n.toNat → s.n.toNat ≤ 9 → (dpp : Int) = s.n.toNat + s.exp.toInt →
    s.n.toNat ≤ dpp → dpp ≤ 21 → ∃ t, exec .layout s = .next t ∧ t.mode = .fixedInt ∧ t.tlen.toNat = dpp ∧
      (∀ j, j < s.n.toNat → t.txt[j]? = s.dig[9 - s.n.toNat + j]?) ∧
      (∀ j, s.n.toNat ≤ j → j < dpp → t.txt[j]? = some 0x30)

/-- R134: `frac_text`; when the fraction empties the point goes too. -/
def Obligations.FracTextTrimsTheFraction : Prop :=
  ∀ (s : State) (dpp : Nat), s.n.toNat ≤ 9 → s.nk.toNat ≤ s.n.toNat → (dpp : Int) = s.n.toNat + s.exp.toInt →
    0 < dpp → dpp < s.n.toNat → ∃ t, exec .layout s = .next t ∧ t.mode = .fixedFrac ∧
      (∀ j, j < dpp → t.txt[j]? = s.dig[9 - s.n.toNat + j]?) ∧
      (dpp < s.nk.toNat → t.txt[dpp]? = some 0x2E ∧ t.tlen.toNat = s.nk.toNat + 1 ∧
        ∀ j, dpp ≤ j → j < s.nk.toNat → t.txt[j + 1]? = s.dig[9 - s.n.toNat + j]?) ∧
      (s.nk.toNat ≤ dpp → t.tlen.toNat = dpp)

/-- R135: `small_text`. -/
def Obligations.SmallTextLeadsWithZeros : Prop :=
  ∀ (s : State) (z : Nat), s.n.toNat ≤ 9 → 1 ≤ s.nk.toNat → s.nk.toNat ≤ s.n.toNat →
    -(z : Int) = s.n.toNat + s.exp.toInt → z ≤ 5 → ∃ t, exec .layout s = .next t ∧ t.mode = .fixedSmall ∧
      t.txt[0]? = some 0x30 ∧ t.txt[1]? = some 0x2E ∧ (∀ j, j < z → t.txt[2 + j]? = some 0x30) ∧
      (∀ j, j < s.nk.toNat → t.txt[2 + z + j]? = s.dig[9 - s.n.toNat + j]?) ∧
      t.tlen.toNat = 2 + z + s.nk.toNat

/-- R136 and R137: `sci_text` with the scientific exponent, and `exp_digits`. -/
def Obligations.SciTextPrintsTheScientificExponent : Prop :=
  ∀ s : State, s.n.toNat ≤ 9 → 1 ≤ s.nk.toNat → s.nk.toNat ≤ s.n.toNat → -45 ≤ s.exp.toInt → s.exp.toInt ≤ 32 →
    let se := s.n.toNat + s.exp.toInt - 1;
    se < -6 ∨ 20 < se → ∃ t m, exec .layout s = .next t ∧ t.mode = .sci ∧
      t.txt[0]? = s.dig[9 - s.n.toNat]? ∧
      m = (if 1 < s.nk.toNat then s.nk.toNat + 1 else 1) ∧
      (1 < s.nk.toNat → t.txt[1]? = some 0x2E ∧
        ∀ j, 1 ≤ j → j < s.nk.toNat → t.txt[1 + j]? = s.dig[9 - s.n.toNat + j]?) ∧
      t.txt[m]? = some 0x65 ∧ t.txt[m + 1]? = some (if 0 ≤ se then 0x2B else 0x2D) ∧
      (10 ≤ se.natAbs → t.txt[m + 2]? = some (pair se.natAbs).1 ∧ t.txt[m + 3]? = some (pair se.natAbs).2 ∧
        t.tlen.toNat = m + 4) ∧
      (se.natAbs < 10 → t.txt[m + 2]? = some (chr se.natAbs) ∧ t.tlen.toNat = m + 3)

/-- R138: DIGITS and then LAYOUT stage exactly the text `layout(SIG, EXP)`. -/
def Obligations.DigitsThenLayoutStageTheLayout : Prop :=
  ∀ s : State, 1 ≤ s.sig.toNat → s.sig.toNat < 10 ^ 9 → -45 ≤ s.exp.toInt → s.exp.toInt ≤ 32 →
    ∃ t u, exec .digits s = .next t ∧ exec .layout t = .next u ∧
      u.tlen.toNat = (Reference.layout s.sig.toNat s.exp.toInt).length ∧
      ∀ i, i < u.tlen.toNat → u.txt[i]? = (Reference.layout s.sig.toNat s.exp.toInt)[i]?

/-- R139 (a): read as a decimal numeral the body denotes exactly SIG 10^EXP. -/
def Obligations.LayoutDenotesTheDecimalResult : Prop :=
  ∀ (sig : Nat) (exp : Int), 1 ≤ sig → sig < 10 ^ 9 → -45 ≤ exp → exp ≤ 32 →
    Reference.numeralValue (Reference.layout sig exp) = sig * (10 : ℚ) ^ exp

/-- R131, R139 (d): trailing zeros of SIG do not change the text. -/
def Obligations.TrailingZerosDoNotChangeTheText : Prop :=
  ∀ (sig : Nat) (exp : Int), 1 ≤ sig → sig < 10 ^ 8 → -44 ≤ exp → exp ≤ 32 →
    Reference.layout (10 * sig) (exp - 1) = Reference.layout sig exp

/-! ## Emission -/

/-- R140: the byte TXT[POS - SIGN] goes to offset POS; the last one completes the conversion. -/
def Obligations.EmitWritesTheNextByte : Prop :=
  ∀ (s : State) (b : Byte), s.sign.toNat ≤ s.pos.toNat → s.pos.toNat < 31 →
    s.txt[s.pos.toNat - s.sign.toNat]? = some b → ∃ t, exec .emit s = .next t ∧
      outAt t s.pos.toNat = some b ∧ SameOutExceptAt s.pos.toNat s t ∧ t.pos.toNat = s.pos.toNat + 1 ∧
      t = (if s.pos.toNat - s.sign.toNat + 1 = s.tlen.toNat then
            { s with
              out := t.out, wrEn := true, wrOff := s.pos, wrData := b, pos := t.pos, len := t.pos, phase := .done }
          else { s with out := t.out, wrEn := true, wrOff := s.pos, wrData := b, pos := t.pos, phase := .emit })

/-- The 14 character rows with their codes (R70): each writes its byte at offset POS, as EMIT does for a byte of the
body (R140; that a character row means its emission is the model's choice, log 9). -/
def Obligations.CharactersWriteTheirCodes : Prop :=
  ∀ (i : Instr) (b : Byte),
    (i, b) ∈ ([(.chr0, 0x30), (.chr1, 0x31), (.chr2, 0x32), (.chr3, 0x33), (.chr4, 0x34), (.chr5, 0x35),
      (.chr6, 0x36), (.chr7, 0x37), (.chr8, 0x38), (.chr9, 0x39), (.chrMinus, 0x2D), (.chrPlus, 0x2B),
      (.chrPoint, 0x2E), (.chrE, 0x65)] : List (Instr × Byte)) →
    ∀ s : State, s.pos.toNat < 31 → ∃ t, exec i s = .next t ∧
      outAt t s.pos.toNat = some b ∧ SameOutExceptAt s.pos.toNat s t ∧ t.pos.toNat = s.pos.toNat + 1 ∧
      t = (if (s.pos.toNat : Int) - s.sign.toNat + 1 = s.tlen.toNat then
            { s with
              out := t.out, wrEn := true, wrOff := s.pos, wrData := b, pos := t.pos, len := t.pos, phase := .done }
          else { s with out := t.out, wrEn := true, wrOff := s.pos, wrData := b, pos := t.pos, phase := .emit })

/-! ## CONVERT -/

/-- R160: an infinity or NaN completes with LEN = 0, FAULT as it was and no byte written; RAW, SIGN, EF and MF keep the
operand's fields, and no other register of the conversion changes. That the transaction is one step is the model's choice
(log 7). -/
def Obligations.ConvertInfnanIsUnsupported : Prop :=
  ∀ (sign : BitVec 1) (mf : BitVec 23) (s : State), s.ready = true →
    ∃ t, exec (.convertInfnan sign mf) s = .next t ∧ t.done = true ∧ t.wrEn = false ∧
      t.raw = operandWord sign 255 mf ∧ t.sign = sign ∧ t.ef = 255 ∧ t.mf = mf ∧ t.len = 0 ∧ SameOut s t ∧
      t = { s with
            rst := t.rst, start := t.start, inBits := t.inBits, wrEn := t.wrEn, wrOff := t.wrOff
            wrData := t.wrData, freeCtr := t.freeCtr
            raw := t.raw, sign := t.sign, ef := t.ef, mf := t.mf, pos := 0, len := 0, phase := .done }

/-- R83, R90: a zero prints "0", with "-" before it when the sign is set; the engine and the layout are not entered, so
none of their registers changes (one step: log 7). -/
def Obligations.ConvertZeroPrintsZero : Prop :=
  ∀ (sign : BitVec 1) (s : State), s.ready = true →
    ∃ t, exec (.convertZero sign) s = .next t ∧ t.done = true ∧
      (sign = 0 → t.len.toNat = 1 ∧ outAt t 0 = some 0x30 ∧ SameOutExceptAt 0 s t) ∧
      (sign = 1 → t.len.toNat = 2 ∧ outAt t 0 = some 0x2D ∧ outAt t 1 = some 0x30 ∧
        ∀ a, 2 ≤ a → outAt t a = outAt s a) ∧
      t = { s with
            rst := t.rst, start := t.start, inBits := t.inBits, wrEn := t.wrEn, wrOff := t.wrOff
            wrData := t.wrData, freeCtr := t.freeCtr, out := t.out
            raw := operandWord sign 0 0, sign := sign, ef := 0, mf := 0, txt := t.txt, tlen := 1
            pos := t.len, len := t.len, phase := .done }

/-- R90: each of the five classes of CONVERT computes the function `convert` of its operand word. That the transaction is
one step of the machine is the model's choice (log 7); its steps are those of `quietSteps`. -/
def Obligations.ConvertComputesTheReference : Prop :=
  (∀ sign mf, Converts (.convertInfnan sign mf) (operandWord sign 255 mf)) ∧
  (∀ sign, Converts (.convertZero sign) (operandWord sign 0 0)) ∧
  (∀ sign mf, Converts (.convertSubnormal sign mf) (operandWord sign 0 mf)) ∧
  (∀ sign ef mf, Converts (.convertNormalFastint sign ef mf) (operandWord sign ef mf)) ∧
  (∀ sign ef mf, Converts (.convertNormalEngine sign ef mf) (operandWord sign ef mf))

/-- R86's bypass: a CONVERT of an integer of the fast path leaves SIG = C >> (-Q) and EXP = 0, and no register of the
phases 7 to 17 changes (one step: log 7). -/
def Obligations.FastintBypassesTheEngine : Prop :=
  ∀ (sign : BitVec 1) (ef : BitVec 8) (mf : BitVec 23) (s : State),
    WellFormed (.convertNormalFastint sign ef mf) → s.ready = true →
    ∃ t, exec (.convertNormalFastint sign ef mf) s = .next t ∧ t.done = true ∧
      t.c.toNat = 2 ^ 23 + mf.toNat ∧ t.q.toInt = (ef.toNat : Int) - 150 ∧
      t.sig.toNat = t.c.toNat / 2 ^ (150 - ef.toNat) ∧ t.exp = 0 ∧ t.mode = .fixedInt ∧
      t = { s with
            rst := t.rst, start := t.start, inBits := t.inBits, wrEn := t.wrEn, wrOff := t.wrOff
            wrData := t.wrData, freeCtr := t.freeCtr, out := t.out
            raw := operandWord sign ef mf, sign := sign, ef := ef, mf := mf, c := t.c, q := t.q, sig := t.sig
            exp := t.exp, dig := t.dig, n := t.n, nk := t.nk, dpp := t.dpp, se := t.se, mode := t.mode
            txt := t.txt, tlen := t.tlen, pos := t.len, len := t.len, phase := .done }

/-- R115: a CONVERT of an operand of the engine leaves the engine's registers at the intermediates of `engine` and SIG, EXP
at its result; the host's actions, FAULT and CAUSE stay (one step: log 7). -/
def Obligations.EngineConversionLeavesTheEnginesValues : Prop :=
  ∀ (w : Word) (s : State), s.ready = true →
    Reference.classOf w = .subnormal ∨ Reference.classOf w = .normalEngine →
    let r := Reference.trace (Reference.operandC w) (Reference.operandQ w) (Reference.operandIrr w);
    let d := Reference.engine (Reference.operandC w) (Reference.operandQ w) (Reference.operandIrr w);
    ∃ t, exec (decodeOperand w) s = .next t ∧ t.done = true ∧
      t.c.toNat = Reference.operandC w ∧ t.q.toInt = Reference.operandQ w ∧
      t.irr = BitVec.ofBool (Reference.operandIrr w) ∧
      t.cbl.toNat = r.cbl ∧ t.cb.toNat = r.cb ∧ t.cbr.toNat = r.cbr ∧ t.k.toInt = r.k ∧ (t.h.toNat : Int) = r.h ∧
      t.g.toNat = r.g ∧ t.vbl.toNat = r.vbl ∧ t.vb.toNat = r.vb ∧ t.vbr.toNat = r.vbr ∧
      t.lower.toNat = r.lower ∧ t.upper.toNat = r.upper ∧ t.sReg.toNat = r.s ∧
      t.sig.toNat = d.1 ∧ t.exp.toInt = d.2 ∧
      t.host = s.host ∧ t.fault = s.fault ∧ t.cause = s.cause

/-- R191: the block is busy for exactly the steps the table gives the operand's class and path, and then done. -/
def Obligations.ConversionTakesItsSteps : Prop :=
  ∀ (w : Word) (s : State), s.ready = true →
    2 ≤ Reference.steps w ∧ Reference.steps w ≤ 38 ∧
    (Reference.classOf w = .infnan → Reference.steps w = 2) ∧
    (Reference.classOf w = .zero → Reference.steps w = 5) ∧
    (Reference.classOf w = .normalFastint → 8 ≤ Reference.steps w ∧ Reference.steps w ≤ 15) ∧
    (∀ m, m + 1 < Reference.steps w → (quietSteps m (requestStep w s)).busy = true) ∧
    (quietSteps (Reference.steps w - 1) (requestStep w s)).done = true

/-- R80, R188 (b): a CONVERT presented while `ready` = 0 is ignored: the rule of the current phase runs, and its
registers are those of the same step with `start` = 0. -/
def Obligations.ConvertWhileNotReadyIsIgnored : Prop :=
  ∀ (w : Word) (s : State), s.ready = false →
    ∃ t u, exec (decodeOperand w) s = .next t ∧
      exec s.phase.instr (beginStep { rst := false, start := false, inBits := w } s) = .next u ∧
      t = { u with start := true }

/-- R64, R70, R146: at most 22 bytes, none exactly for an infinity or NaN, and no byte but the 14 characters. -/
def Obligations.TextsHaveLegalLengthAndCharacters : Prop :=
  ∀ w : Word, (Reference.convert w).length ≤ 22 ∧
    ((Reference.convert w).length = 0 ↔ Reference.classOf w = .infnan) ∧
    ∀ b ∈ Reference.convert w, ∃ i, decodeChar b = .ok i

/-- R91 (c): a negative operand prints "-" and then what its positive twin prints. -/
def Obligations.NegativeOperandsOnlyAddTheMinus : Prop :=
  ∀ (ef : BitVec 8) (mf : BitVec 23), ef ≠ 255 →
    Reference.convert (operandWord 1 ef mf) = 0x2D :: Reference.convert (operandWord 0 ef mf)

/-! ## Faults, reset, ports -/

/-- R164: in FAULT a step without `rst` leaves every register and OUT, and no output but `fault` and `cause` is 1. -/
def Obligations.FaultIsAbsorbing : Prop :=
  ∀ (s : State) (p : Ports), s.phase = .fault → p.rst = false →
    exec .fault s = .next s ∧
    ∃ t, blockStep p s = .next t ∧ t.ready = false ∧ t.busy = false ∧ t.done = false ∧ t.wrEn = false ∧
      t = { s with
            rst := false, start := p.start, inBits := p.inBits, wrEn := false, wrOff := t.wrOff
            wrData := t.wrData, freeCtr := t.freeCtr } ∧
      SameOut s t

/-- R180: a step with `rst` = 1 leaves these values whatever PHASE and `start` are, and makes no write. -/
def Obligations.ResetOverridesEveryPhase : Prop :=
  ∀ (s : State) (p : Ports), p.rst = true →
    ∃ t, blockStep p s = .next t ∧ t.phase = .idle ∧ t.fault = 0 ∧ t.cause = 0 ∧ t.len = 0 ∧ t.pos = 0 ∧
      t.wrEn = false ∧ t.ready = true ∧ t.busy = false ∧ t.done = false ∧ t.status = 1 ∧ t.host = s.host ∧
      SameOut s t

/-- R29, R13: the values the spec gives for reset, in the state after reset. -/
def Obligations.ResetStateHasTheSpecsValues : Prop :=
  State.reset.phase = .idle ∧ State.reset.fault = 0 ∧ State.reset.cause = 0 ∧ State.reset.len = 0 ∧
    State.reset.pos = 0 ∧ State.reset.wrEn = false ∧ State.reset.status.toNat = 0b00_0_00000_0_0_1

/-- R13 with R12's definitions of `ready`, `busy` and `done`. -/
def Obligations.StatusWordPacksTheOutputs : Prop :=
  ∀ s : State,
    (s.ready = true ↔ s.phase = .idle ∨ s.phase = .done) ∧
    (s.busy = true ↔ s.phase ≠ .idle ∧ s.phase ≠ .done ∧ s.phase ≠ .fault) ∧
    (s.done = true ↔ s.phase = .done) ∧
    s.status.toNat = 512 * s.cause.toNat + 256 * s.fault.toNat + 8 * s.len.toNat + 4 * s.done.toNat +
      2 * s.busy.toNat + s.ready.toNat

/-- R48: a MemWrite stores its byte at its offset, leaves every other byte, and shows on the write port. -/
def Obligations.MemWriteStoresOneByte : Prop :=
  ∀ (off : BitVec 5) (b : Byte) (s : State),
    let t := memWrite off b s;
    outAt t off.toNat = some b ∧ SameOutExceptAt off.toNat s t ∧
    t = { s with out := t.out, wrEn := true, wrOff := off, wrData := b } ∧
    (Memory.wf s.out = true → Memory.wf t.out = true)

/-- R40, R48: only SIGNW and EMIT write, one byte, at offset POS, shown on the write port; in every other step `wr_en` is
0 and OUT does not change. -/
def Obligations.OnlySignwAndEmitWriteOut : Prop :=
  ∀ (p : Ports) (s t : State), blockStep p s = .next t →
    (t.wrEn = true ∧ (s.phase = .signw ∨ s.phase = .emit) ∧ p.rst = false ∧ t.wrOff = s.pos ∧
      outAt t s.pos.toNat = some t.wrData ∧ SameOutExceptAt s.pos.toNat s t) ∨
    (t.wrEn = false ∧ SameOut s t)

/-- R74: every step of the block follows the phase graph. -/
def Obligations.StepsFollowThePhaseGraph : Prop :=
  ∀ (p : Ports) (s : State), ∃ t, blockStep p s = .next t ∧ t.phase = successor p s

/-- The "written by" columns of R14 to R25: in a step without `rst` a register changes in no other phase than its
writers. -/
def Obligations.RegistersChangeOnlyInTheirPhases : Prop :=
  ∀ (p : Ports) (s t : State), p.rst = false → blockStep p s = .next t →
    (t.raw ≠ s.raw → s.ready = true ∧ p.start = true) ∧
    ((t.sign ≠ s.sign ∨ t.ef ≠ s.ef ∨ t.mf ≠ s.mf) → s.phase = .decode) ∧
    ((t.c ≠ s.c ∨ t.q ≠ s.q) → s.phase = .normal ∨ s.phase = .subnormal) ∧
    ((t.irr ≠ s.irr ∨ t.cbl ≠ s.cbl ∨ t.cb ≠ s.cb ∨ t.cbr ≠ s.cbr) → s.phase = .bounds) ∧
    (t.k ≠ s.k → s.phase = .expk) ∧
    (t.h ≠ s.h → s.phase = .shifth) ∧
    ((t.g ≠ s.g ∨ t.fault ≠ s.fault ∨ t.cause ≠ s.cause) → s.phase = .lut) ∧
    (t.vbl ≠ s.vbl → s.phase = .mull) ∧
    (t.vb ≠ s.vb → s.phase = .mulc) ∧
    (t.vbr ≠ s.vbr → s.phase = .mulr) ∧
    ((t.lower ≠ s.lower ∨ t.upper ≠ s.upper ∨ t.sReg ≠ s.sReg) → s.phase = .interval) ∧
    ((t.sig ≠ s.sig ∨ t.exp ≠ s.exp) →
      s.phase = .fastint ∨ s.phase = .shorter ∨ s.phase = .direct ∨ s.phase = .tie) ∧
    ((t.dig ≠ s.dig ∨ t.n ≠ s.n ∨ t.nk ≠ s.nk) → s.phase = .digits) ∧
    ((t.dpp ≠ s.dpp ∨ t.se ≠ s.se ∨ t.mode ≠ s.mode) → s.phase = .layout) ∧
    ((t.txt ≠ s.txt ∨ t.tlen ≠ s.tlen) → s.phase = .zero ∨ s.phase = .layout) ∧
    (t.pos ≠ s.pos → s.ready = true ∨ s.phase = .signw ∨ s.phase = .emit) ∧
    (t.len ≠ s.len → s.ready = true ∨ s.phase = .decode ∨ s.phase = .emit)

/-- The host's write of its own buffer: performed while the block is not busy, a race while it is (R186; that the model
holds the host's writes is its choice, log 14). -/
def Obligations.HostWritesOnlyWhileNotBusy : Prop :=
  ∀ (s : State) (off : BitVec 5) (b : Byte) (rest : List HostAction), s.host = .write off b :: rest →
    (s.busy = true → step s = .fault (.bufferRace off)) ∧
    (s.busy = false → ∃ t, step s = .next t ∧ outAt t off.toNat = some b ∧ SameOutExceptAt off.toNat s t ∧
      t = { s with host := rest, out := t.out })

/-- R165: a step answers a next state from every state, but for a host that writes OUT while the block is busy
(log 14). -/
def Obligations.OnlyTheHostsRaceStopsTheMachine : Prop :=
  ∀ s : State, (∃ t, step s = .next t) ∨
    ∃ off b rest, s.host = .write off b :: rest ∧ s.busy = true ∧ step s = .fault (.bufferRace off)

/-! ## Invariants -/

/-- OUT keeps its canonical form in every step, from every state that has it. -/
def Obligations.EveryStepKeepsOutCanonical : Prop :=
  ∀ s t : State, Memory.wf s.out = true → step s = .next t → Memory.wf t.out = true

/-- The state after reset meets the invariant of a run. -/
def Obligations.ResetMeetsTheInvariant : Prop := RunInvariant State.reset

/-- The invariant of a run is kept by every step: in each phase the registers it reads hold what this conversion has
written, the values of `engine` and `layout` (R36, R115, R120, R138); OUT holds a prefix of the text while EMIT runs
(R56); no ContractFault is taken. -/
def Obligations.EveryStepKeepsTheInvariant : Prop :=
  ∀ s t : State, RunInvariant s → step s = .next t → RunInvariant t

/-- R121: for every operand the engine sees LUT's tests hold, and no step from a state of a run enters FAULT, under any
host actions (their list is the model's, log 5). -/
def Obligations.ContractFaultIsUnreachable : Prop :=
  (∀ w : Word, Reference.classOf w = .subnormal ∨ Reference.classOf w = .normalEngine →
    let t := Reference.trace (Reference.operandC w) (Reference.operandQ w) (Reference.operandIrr w);
    -31 ≤ -t.k ∧ -t.k ≤ 45 ∧ 1 ≤ t.h ∧ t.h ≤ 4) ∧
  (∀ s t : State, RunInvariant s → step s = .next t → t.phase ≠ .fault ∧ t.fault = 0) ∧
  (∀ (acts : List HostAction) (n : Nat) (t : State),
    core.run n { State.reset with host := acts } = .next t → t.phase ≠ .fault ∧ t.fault = 0)
end

