-- ==== Sys2Proof/Laws/Ops.lean ====
section
/-! SUPPORT. What the shared operations do: register writes, `rop`, OUT, the arrays DIG and TXT. -/

namespace Sys2Proof.Machine

/-! Register writes. -/

theorem fitU_toNat {w : Nat} {v : Int} {x : OpenValue} {s : State} (h0 : 0 ≤ v) (h1 : v < 2 ^ w) :
    ((fitU w v x s).toNat : Int) = v := by
  unfold fitU
  rw [if_pos ⟨h0, h1⟩, BitVec.toNat_ofInt]
  push_cast
  rw [Int.emod_eq_of_lt h0 h1, Int.toNat_of_nonneg h0]

theorem fitS_toInt {w : Nat} {v : Int} {x : OpenValue} {s : State} (h0 : -2 ^ w ≤ v) (h1 : v < 2 ^ w) :
    (fitS w v x s).toInt = v := by
  unfold fitS
  rw [if_pos ⟨h0, h1⟩, BitVec.toInt_ofInt]
  exact Int.bmod_eq_of_le_mul_two (by rw [Nat.pow_succ]; push_cast; omega) (by rw [Nat.pow_succ]; push_cast; omega)

/-! `rop`. -/

/-- `rop` is the high half of the product or, where the sticky test holds and it is even, that plus one. -/
theorem rop_cases (g cp : Nat) :
    rop g cp = (if g * cp % 2 ^ 64 / 2 ^ 32 > 1 ∧ g * cp / 2 ^ 64 % 2 = 0 then g * cp / 2 ^ 64 + 1
      else g * cp / 2 ^ 64) := by
  have key : ∀ n : Nat, n ||| 1 = if n % 2 = 0 then n + 1 else n := by
    intro n
    rcases Nat.mod_two_eq_zero_or_one n with h | h
    · rw [if_pos h]
      have : n = 2 ^ 1 * (n / 2) := by omega
      rw [this, ← Nat.two_pow_add_eq_or_of_lt (by decide : 1 < 2 ^ 1)]
    · rw [if_neg (by omega)]
      have : n = 2 ^ 1 * (n / 2) + 1 := by omega
      rw [this, Nat.two_pow_add_eq_or_of_lt (by decide : 1 < 2 ^ 1), Nat.or_assoc, Nat.or_self]
  unfold rop
  by_cases hs : g * cp % 2 ^ 64 / 2 ^ 32 > 1
  · simp only [hs, if_true, key, true_and]
  · simp only [hs, if_false, false_and, Nat.or_zero]

/-! OUT. -/

theorem read?_write_same (m : Memory) (a : Nat) (b : Byte) : (m.write a b).read? a = some b := by
  induction m with
  | nil => simp [Memory.write, Memory.read?]
  | cons x m ih =>
    obtain ⟨a', b'⟩ := x
    unfold Memory.write
    split
    · simp [Memory.read?]
    · split
      · simp [Memory.read?]
      · rename_i h1 h2
        have : a' ≠ a := fun e => h2 e.symm
        simp [Memory.read?, this, ih]

theorem read?_write_other (m : Memory) {a c : Nat} (b : Byte) (h : c ≠ a) : (m.write a b).read? c = m.read? c := by
  induction m with
  | nil => simp [Memory.write, Memory.read?, Ne.symm h]
  | cons x m ih =>
    obtain ⟨a', b'⟩ := x
    unfold Memory.write
    split
    · simp [Memory.read?, Ne.symm h]
    · split
      · rename_i h1 h2
        subst h2
        simp [Memory.read?, Ne.symm h]
      · simp [Memory.read?, ih]

theorem wfFrom_write {m : Memory} {lo a : Nat} (b : Byte) (hm : Memory.wfFrom lo m = true) (hl : lo ≤ a)
    (ha : a < outCap) : Memory.wfFrom lo (m.write a b) = true := by
  induction m generalizing lo with
  | nil => simp [Memory.write, Memory.wfFrom, hl]; simpa using ha
  | cons x m ih =>
    obtain ⟨a', b'⟩ := x
    simp only [Memory.wfFrom, Bool.and_eq_true, decide_eq_true_eq] at hm
    obtain ⟨⟨h1, h2⟩, h3⟩ := hm
    unfold Memory.write
    split
    · simp only [Memory.wfFrom, Bool.and_eq_true, decide_eq_true_eq]
      exact ⟨⟨hl, ha⟩, ⟨by omega, h2⟩, h3⟩
    · split
      · rename_i h4 h5
        subst h5
        simp only [Memory.wfFrom, Bool.and_eq_true, decide_eq_true_eq]
        exact ⟨⟨hl, ha⟩, h3⟩
      · simp only [Memory.wfFrom, Bool.and_eq_true, decide_eq_true_eq]
        exact ⟨⟨h1, h2⟩, ih h3 (by omega)⟩

/-- A write at an offset of the space keeps the canonical form. -/
theorem wf_write {m : Memory} (off : BitVec 5) (b : Byte) (hm : m.wf = true) :
    Memory.wf (m.write off.toNat b) = true :=
  wfFrom_write b hm (Nat.zero_le _) off.isLt

/-- Reset's OUT is in canonical form. -/
theorem wf_reset : State.reset.out.wf = true := rfl

/-! DIG and TXT. -/

theorem storeDigits_getElem (dig : Vector Byte 9) (ds : List Byte) (i : Nat) (h : i < 9) :
    (storeDigits dig ds)[i] = if 9 ≤ i + ds.length then ds.getD (i + ds.length - 9) 0 else dig[i] := by
  simp [storeDigits]

theorem storeText_getElem (txt : Vector Byte 21) (t : List Byte) (i : Nat) (h : i < 21) :
    (storeText txt t)[i] = t.getD i txt[i] := by
  simp [storeText]

theorem digitRun_length (d : Nat → Byte) (a b : Nat) : (digitRun d a b).length = b - a := by simp [digitRun]

theorem digitRun_getElem (d : Nat → Byte) (a b j : Nat) (h : j < (digitRun d a b).length) :
    (digitRun d a b)[j] = d (a + j) := by
  simp [digitRun]

/-- The operands of a run have a text: EXP in R19's range and N in R20's. -/
theorem textStated_of {n : Nat} {exp : Int} (hn : 1 ≤ n) (hn' : n ≤ 9) (h0 : -45 ≤ exp) (h1 : exp ≤ 32) :
    textStated exp (n + exp) = true := by
  simp only [textStated, Bool.and_eq_true, decide_eq_true_eq]
  omega

/-- LAYOUT where the spec states the text (R131): everything it does. -/
theorem ruleLayout_of_stated {s : State} (h : textStated s.exp.toInt (s.n.toNat + s.exp.toInt) = true) :
    ruleLayout s =
      let dpp : Int := s.n.toNat + s.exp.toInt
      let t := layoutText Config.encoder s.digit s.n.toNat s.nk.toNat dpp
      { s with
        dpp := fitS 6 dpp .dpp s, se := fitS 6 (dpp - 1) .se s, mode := t.1, txt := storeText s.txt t.2
        tlen := fitU 5 t.2.length .tlen s, phase := .emit } := by
  simp [ruleLayout, h]

end Sys2Proof.Machine
end

