-- ==== Sys2Proof/Laws/PerInstr.lean ====
section
/-! SUPPORT. One family of lemmas per constructor of Instr: how many bytes the encoding has (R60, R70, R72). -/

namespace Sys2Proof.Laws.EncodedLength

/-- Four bytes for an operand word, one for a phase code or a character. -/
def widthBytes : Instr → Nat
  | .convertInfnan _ _ | .convertZero _ | .convertSubnormal _ _ | .convertNormalFastint _ _ _
  | .convertNormalEngine _ _ _ => 4
  | .idle | .decode | .signw | .zero | .normal | .subnormal | .fastint | .bounds | .expk | .shifth | .lut | .mull
  | .mulc | .mulr | .interval | .shorter | .direct | .tie | .digits | .layout | .emit | .done | .fault => 1
  | .chr0 | .chr1 | .chr2 | .chr3 | .chr4 | .chr5 | .chr6 | .chr7 | .chr8 | .chr9 | .chrMinus | .chrPlus
  | .chrPoint | .chrE => 1

/-- The encoding of an instruction has its format's length. -/
def Statement (i : Instr) : Prop := (encode i).length = widthBytes i

theorem convertInfnan (sign : BitVec 1) (mf : BitVec 23) : Statement (.convertInfnan sign mf) := rfl
theorem convertZero (sign : BitVec 1) : Statement (.convertZero sign) := rfl
theorem convertSubnormal (sign : BitVec 1) (mf : BitVec 23) : Statement (.convertSubnormal sign mf) := rfl
theorem convertNormalFastint (sign : BitVec 1) (ef : BitVec 8) (mf : BitVec 23) :
    Statement (.convertNormalFastint sign ef mf) := rfl
theorem convertNormalEngine (sign : BitVec 1) (ef : BitVec 8) (mf : BitVec 23) :
    Statement (.convertNormalEngine sign ef mf) := rfl
theorem idle : Statement .idle := rfl
theorem decode : Statement .decode := rfl
theorem signw : Statement .signw := rfl
theorem zero : Statement .zero := rfl
theorem normal : Statement .normal := rfl
theorem subnormal : Statement .subnormal := rfl
theorem fastint : Statement .fastint := rfl
theorem bounds : Statement .bounds := rfl
theorem expk : Statement .expk := rfl
theorem shifth : Statement .shifth := rfl
theorem lut : Statement .lut := rfl
theorem mull : Statement .mull := rfl
theorem mulc : Statement .mulc := rfl
theorem mulr : Statement .mulr := rfl
theorem interval : Statement .interval := rfl
theorem shorter : Statement .shorter := rfl
theorem direct : Statement .direct := rfl
theorem tie : Statement .tie := rfl
theorem digits : Statement .digits := rfl
theorem layout : Statement .layout := rfl
theorem emit : Statement .emit := rfl
theorem done : Statement .done := rfl
theorem fault : Statement .fault := rfl
theorem chr0 : Statement .chr0 := rfl
theorem chr1 : Statement .chr1 := rfl
theorem chr2 : Statement .chr2 := rfl
theorem chr3 : Statement .chr3 := rfl
theorem chr4 : Statement .chr4 := rfl
theorem chr5 : Statement .chr5 := rfl
theorem chr6 : Statement .chr6 := rfl
theorem chr7 : Statement .chr7 := rfl
theorem chr8 : Statement .chr8 := rfl
theorem chr9 : Statement .chr9 := rfl
theorem chrMinus : Statement .chrMinus := rfl
theorem chrPlus : Statement .chrPlus := rfl
theorem chrPoint : Statement .chrPoint := rfl
theorem chrE : Statement .chrE := rfl

end Sys2Proof.Laws.EncodedLength
end

