-- ==== Sys2Proof/Laws/State.lean ====
section
/-! SUPPORT. One lemma per field per named update of the state, true by rfl. -/

namespace Sys2Proof.Machine

/-! `beginStep` writes the ports and the step's number. -/

@[simp] theorem beginStep_host (p : Ports) (s : State) : (beginStep p s).host = s.host := rfl
@[simp] theorem beginStep_rst (p : Ports) (s : State) : (beginStep p s).rst = p.rst := rfl
@[simp] theorem beginStep_start (p : Ports) (s : State) : (beginStep p s).start = p.start := rfl
@[simp] theorem beginStep_inBits (p : Ports) (s : State) : (beginStep p s).inBits = p.inBits := rfl
@[simp] theorem beginStep_wrEn (p : Ports) (s : State) : (beginStep p s).wrEn = false := rfl
@[simp] theorem beginStep_wrOff (p : Ports) (s : State) : (beginStep p s).wrOff = Config.freeBits 5 .wrOff (s.freeCtr + 1) := rfl
@[simp] theorem beginStep_wrData (p : Ports) (s : State) : (beginStep p s).wrData = Config.freeBits 8 .wrData (s.freeCtr + 1) := rfl
@[simp] theorem beginStep_phase (p : Ports) (s : State) : (beginStep p s).phase = s.phase := rfl
@[simp] theorem beginStep_fault (p : Ports) (s : State) : (beginStep p s).fault = s.fault := rfl
@[simp] theorem beginStep_cause (p : Ports) (s : State) : (beginStep p s).cause = s.cause := rfl
@[simp] theorem beginStep_raw (p : Ports) (s : State) : (beginStep p s).raw = s.raw := rfl
@[simp] theorem beginStep_sign (p : Ports) (s : State) : (beginStep p s).sign = s.sign := rfl
@[simp] theorem beginStep_ef (p : Ports) (s : State) : (beginStep p s).ef = s.ef := rfl
@[simp] theorem beginStep_mf (p : Ports) (s : State) : (beginStep p s).mf = s.mf := rfl
@[simp] theorem beginStep_c (p : Ports) (s : State) : (beginStep p s).c = s.c := rfl
@[simp] theorem beginStep_q (p : Ports) (s : State) : (beginStep p s).q = s.q := rfl
@[simp] theorem beginStep_irr (p : Ports) (s : State) : (beginStep p s).irr = s.irr := rfl
@[simp] theorem beginStep_cbl (p : Ports) (s : State) : (beginStep p s).cbl = s.cbl := rfl
@[simp] theorem beginStep_cb (p : Ports) (s : State) : (beginStep p s).cb = s.cb := rfl
@[simp] theorem beginStep_cbr (p : Ports) (s : State) : (beginStep p s).cbr = s.cbr := rfl
@[simp] theorem beginStep_k (p : Ports) (s : State) : (beginStep p s).k = s.k := rfl
@[simp] theorem beginStep_h (p : Ports) (s : State) : (beginStep p s).h = s.h := rfl
@[simp] theorem beginStep_g (p : Ports) (s : State) : (beginStep p s).g = s.g := rfl
@[simp] theorem beginStep_vbl (p : Ports) (s : State) : (beginStep p s).vbl = s.vbl := rfl
@[simp] theorem beginStep_vb (p : Ports) (s : State) : (beginStep p s).vb = s.vb := rfl
@[simp] theorem beginStep_vbr (p : Ports) (s : State) : (beginStep p s).vbr = s.vbr := rfl
@[simp] theorem beginStep_lower (p : Ports) (s : State) : (beginStep p s).lower = s.lower := rfl
@[simp] theorem beginStep_upper (p : Ports) (s : State) : (beginStep p s).upper = s.upper := rfl
@[simp] theorem beginStep_sReg (p : Ports) (s : State) : (beginStep p s).sReg = s.sReg := rfl
@[simp] theorem beginStep_sig (p : Ports) (s : State) : (beginStep p s).sig = s.sig := rfl
@[simp] theorem beginStep_exp (p : Ports) (s : State) : (beginStep p s).exp = s.exp := rfl
@[simp] theorem beginStep_dig (p : Ports) (s : State) : (beginStep p s).dig = s.dig := rfl
@[simp] theorem beginStep_n (p : Ports) (s : State) : (beginStep p s).n = s.n := rfl
@[simp] theorem beginStep_nk (p : Ports) (s : State) : (beginStep p s).nk = s.nk := rfl
@[simp] theorem beginStep_dpp (p : Ports) (s : State) : (beginStep p s).dpp = s.dpp := rfl
@[simp] theorem beginStep_se (p : Ports) (s : State) : (beginStep p s).se = s.se := rfl
@[simp] theorem beginStep_mode (p : Ports) (s : State) : (beginStep p s).mode = s.mode := rfl
@[simp] theorem beginStep_txt (p : Ports) (s : State) : (beginStep p s).txt = s.txt := rfl
@[simp] theorem beginStep_tlen (p : Ports) (s : State) : (beginStep p s).tlen = s.tlen := rfl
@[simp] theorem beginStep_pos (p : Ports) (s : State) : (beginStep p s).pos = s.pos := rfl
@[simp] theorem beginStep_len (p : Ports) (s : State) : (beginStep p s).len = s.len := rfl
@[simp] theorem beginStep_out (p : Ports) (s : State) : (beginStep p s).out = s.out := rfl
@[simp] theorem beginStep_freeCtr (p : Ports) (s : State) : (beginStep p s).freeCtr = s.freeCtr + 1 := rfl

/-! `memWrite` writes OUT and the write port. -/

@[simp] theorem memWrite_host (off : BitVec 5) (b : Byte) (s : State) : (memWrite off b s).host = s.host := rfl
@[simp] theorem memWrite_rst (off : BitVec 5) (b : Byte) (s : State) : (memWrite off b s).rst = s.rst := rfl
@[simp] theorem memWrite_start (off : BitVec 5) (b : Byte) (s : State) : (memWrite off b s).start = s.start := rfl
@[simp] theorem memWrite_inBits (off : BitVec 5) (b : Byte) (s : State) : (memWrite off b s).inBits = s.inBits := rfl
@[simp] theorem memWrite_wrEn (off : BitVec 5) (b : Byte) (s : State) : (memWrite off b s).wrEn = true := rfl
@[simp] theorem memWrite_wrOff (off : BitVec 5) (b : Byte) (s : State) : (memWrite off b s).wrOff = off := rfl
@[simp] theorem memWrite_wrData (off : BitVec 5) (b : Byte) (s : State) : (memWrite off b s).wrData = b := rfl
@[simp] theorem memWrite_phase (off : BitVec 5) (b : Byte) (s : State) : (memWrite off b s).phase = s.phase := rfl
@[simp] theorem memWrite_fault (off : BitVec 5) (b : Byte) (s : State) : (memWrite off b s).fault = s.fault := rfl
@[simp] theorem memWrite_cause (off : BitVec 5) (b : Byte) (s : State) : (memWrite off b s).cause = s.cause := rfl
@[simp] theorem memWrite_raw (off : BitVec 5) (b : Byte) (s : State) : (memWrite off b s).raw = s.raw := rfl
@[simp] theorem memWrite_sign (off : BitVec 5) (b : Byte) (s : State) : (memWrite off b s).sign = s.sign := rfl
@[simp] theorem memWrite_ef (off : BitVec 5) (b : Byte) (s : State) : (memWrite off b s).ef = s.ef := rfl
@[simp] theorem memWrite_mf (off : BitVec 5) (b : Byte) (s : State) : (memWrite off b s).mf = s.mf := rfl
@[simp] theorem memWrite_c (off : BitVec 5) (b : Byte) (s : State) : (memWrite off b s).c = s.c := rfl
@[simp] theorem memWrite_q (off : BitVec 5) (b : Byte) (s : State) : (memWrite off b s).q = s.q := rfl
@[simp] theorem memWrite_irr (off : BitVec 5) (b : Byte) (s : State) : (memWrite off b s).irr = s.irr := rfl
@[simp] theorem memWrite_cbl (off : BitVec 5) (b : Byte) (s : State) : (memWrite off b s).cbl = s.cbl := rfl
@[simp] theorem memWrite_cb (off : BitVec 5) (b : Byte) (s : State) : (memWrite off b s).cb = s.cb := rfl
@[simp] theorem memWrite_cbr (off : BitVec 5) (b : Byte) (s : State) : (memWrite off b s).cbr = s.cbr := rfl
@[simp] theorem memWrite_k (off : BitVec 5) (b : Byte) (s : State) : (memWrite off b s).k = s.k := rfl
@[simp] theorem memWrite_h (off : BitVec 5) (b : Byte) (s : State) : (memWrite off b s).h = s.h := rfl
@[simp] theorem memWrite_g (off : BitVec 5) (b : Byte) (s : State) : (memWrite off b s).g = s.g := rfl
@[simp] theorem memWrite_vbl (off : BitVec 5) (b : Byte) (s : State) : (memWrite off b s).vbl = s.vbl := rfl
@[simp] theorem memWrite_vb (off : BitVec 5) (b : Byte) (s : State) : (memWrite off b s).vb = s.vb := rfl
@[simp] theorem memWrite_vbr (off : BitVec 5) (b : Byte) (s : State) : (memWrite off b s).vbr = s.vbr := rfl
@[simp] theorem memWrite_lower (off : BitVec 5) (b : Byte) (s : State) : (memWrite off b s).lower = s.lower := rfl
@[simp] theorem memWrite_upper (off : BitVec 5) (b : Byte) (s : State) : (memWrite off b s).upper = s.upper := rfl
@[simp] theorem memWrite_sReg (off : BitVec 5) (b : Byte) (s : State) : (memWrite off b s).sReg = s.sReg := rfl
@[simp] theorem memWrite_sig (off : BitVec 5) (b : Byte) (s : State) : (memWrite off b s).sig = s.sig := rfl
@[simp] theorem memWrite_exp (off : BitVec 5) (b : Byte) (s : State) : (memWrite off b s).exp = s.exp := rfl
@[simp] theorem memWrite_dig (off : BitVec 5) (b : Byte) (s : State) : (memWrite off b s).dig = s.dig := rfl
@[simp] theorem memWrite_n (off : BitVec 5) (b : Byte) (s : State) : (memWrite off b s).n = s.n := rfl
@[simp] theorem memWrite_nk (off : BitVec 5) (b : Byte) (s : State) : (memWrite off b s).nk = s.nk := rfl
@[simp] theorem memWrite_dpp (off : BitVec 5) (b : Byte) (s : State) : (memWrite off b s).dpp = s.dpp := rfl
@[simp] theorem memWrite_se (off : BitVec 5) (b : Byte) (s : State) : (memWrite off b s).se = s.se := rfl
@[simp] theorem memWrite_mode (off : BitVec 5) (b : Byte) (s : State) : (memWrite off b s).mode = s.mode := rfl
@[simp] theorem memWrite_txt (off : BitVec 5) (b : Byte) (s : State) : (memWrite off b s).txt = s.txt := rfl
@[simp] theorem memWrite_tlen (off : BitVec 5) (b : Byte) (s : State) : (memWrite off b s).tlen = s.tlen := rfl
@[simp] theorem memWrite_pos (off : BitVec 5) (b : Byte) (s : State) : (memWrite off b s).pos = s.pos := rfl
@[simp] theorem memWrite_len (off : BitVec 5) (b : Byte) (s : State) : (memWrite off b s).len = s.len := rfl
@[simp] theorem memWrite_out (off : BitVec 5) (b : Byte) (s : State) : (memWrite off b s).out = s.out.write off.toNat b := rfl
@[simp] theorem memWrite_freeCtr (off : BitVec 5) (b : Byte) (s : State) : (memWrite off b s).freeCtr = s.freeCtr := rfl

/-! `raiseContractFault` writes FAULT, CAUSE and PHASE. -/

@[simp] theorem raiseContractFault_host (cs : BitVec 2) (s : State) : (raiseContractFault cs s).host = s.host := rfl
@[simp] theorem raiseContractFault_rst (cs : BitVec 2) (s : State) : (raiseContractFault cs s).rst = s.rst := rfl
@[simp] theorem raiseContractFault_start (cs : BitVec 2) (s : State) : (raiseContractFault cs s).start = s.start := rfl
@[simp] theorem raiseContractFault_inBits (cs : BitVec 2) (s : State) : (raiseContractFault cs s).inBits = s.inBits := rfl
@[simp] theorem raiseContractFault_wrEn (cs : BitVec 2) (s : State) : (raiseContractFault cs s).wrEn = s.wrEn := rfl
@[simp] theorem raiseContractFault_wrOff (cs : BitVec 2) (s : State) : (raiseContractFault cs s).wrOff = s.wrOff := rfl
@[simp] theorem raiseContractFault_wrData (cs : BitVec 2) (s : State) : (raiseContractFault cs s).wrData = s.wrData := rfl
@[simp] theorem raiseContractFault_phase (cs : BitVec 2) (s : State) : (raiseContractFault cs s).phase = .fault := rfl
@[simp] theorem raiseContractFault_fault (cs : BitVec 2) (s : State) : (raiseContractFault cs s).fault = 1 := rfl
@[simp] theorem raiseContractFault_cause (cs : BitVec 2) (s : State) : (raiseContractFault cs s).cause = cs := rfl
@[simp] theorem raiseContractFault_raw (cs : BitVec 2) (s : State) : (raiseContractFault cs s).raw = s.raw := rfl
@[simp] theorem raiseContractFault_sign (cs : BitVec 2) (s : State) : (raiseContractFault cs s).sign = s.sign := rfl
@[simp] theorem raiseContractFault_ef (cs : BitVec 2) (s : State) : (raiseContractFault cs s).ef = s.ef := rfl
@[simp] theorem raiseContractFault_mf (cs : BitVec 2) (s : State) : (raiseContractFault cs s).mf = s.mf := rfl
@[simp] theorem raiseContractFault_c (cs : BitVec 2) (s : State) : (raiseContractFault cs s).c = s.c := rfl
@[simp] theorem raiseContractFault_q (cs : BitVec 2) (s : State) : (raiseContractFault cs s).q = s.q := rfl
@[simp] theorem raiseContractFault_irr (cs : BitVec 2) (s : State) : (raiseContractFault cs s).irr = s.irr := rfl
@[simp] theorem raiseContractFault_cbl (cs : BitVec 2) (s : State) : (raiseContractFault cs s).cbl = s.cbl := rfl
@[simp] theorem raiseContractFault_cb (cs : BitVec 2) (s : State) : (raiseContractFault cs s).cb = s.cb := rfl
@[simp] theorem raiseContractFault_cbr (cs : BitVec 2) (s : State) : (raiseContractFault cs s).cbr = s.cbr := rfl
@[simp] theorem raiseContractFault_k (cs : BitVec 2) (s : State) : (raiseContractFault cs s).k = s.k := rfl
@[simp] theorem raiseContractFault_h (cs : BitVec 2) (s : State) : (raiseContractFault cs s).h = s.h := rfl
@[simp] theorem raiseContractFault_g (cs : BitVec 2) (s : State) : (raiseContractFault cs s).g = s.g := rfl
@[simp] theorem raiseContractFault_vbl (cs : BitVec 2) (s : State) : (raiseContractFault cs s).vbl = s.vbl := rfl
@[simp] theorem raiseContractFault_vb (cs : BitVec 2) (s : State) : (raiseContractFault cs s).vb = s.vb := rfl
@[simp] theorem raiseContractFault_vbr (cs : BitVec 2) (s : State) : (raiseContractFault cs s).vbr = s.vbr := rfl
@[simp] theorem raiseContractFault_lower (cs : BitVec 2) (s : State) : (raiseContractFault cs s).lower = s.lower := rfl
@[simp] theorem raiseContractFault_upper (cs : BitVec 2) (s : State) : (raiseContractFault cs s).upper = s.upper := rfl
@[simp] theorem raiseContractFault_sReg (cs : BitVec 2) (s : State) : (raiseContractFault cs s).sReg = s.sReg := rfl
@[simp] theorem raiseContractFault_sig (cs : BitVec 2) (s : State) : (raiseContractFault cs s).sig = s.sig := rfl
@[simp] theorem raiseContractFault_exp (cs : BitVec 2) (s : State) : (raiseContractFault cs s).exp = s.exp := rfl
@[simp] theorem raiseContractFault_dig (cs : BitVec 2) (s : State) : (raiseContractFault cs s).dig = s.dig := rfl
@[simp] theorem raiseContractFault_n (cs : BitVec 2) (s : State) : (raiseContractFault cs s).n = s.n := rfl
@[simp] theorem raiseContractFault_nk (cs : BitVec 2) (s : State) : (raiseContractFault cs s).nk = s.nk := rfl
@[simp] theorem raiseContractFault_dpp (cs : BitVec 2) (s : State) : (raiseContractFault cs s).dpp = s.dpp := rfl
@[simp] theorem raiseContractFault_se (cs : BitVec 2) (s : State) : (raiseContractFault cs s).se = s.se := rfl
@[simp] theorem raiseContractFault_mode (cs : BitVec 2) (s : State) : (raiseContractFault cs s).mode = s.mode := rfl
@[simp] theorem raiseContractFault_txt (cs : BitVec 2) (s : State) : (raiseContractFault cs s).txt = s.txt := rfl
@[simp] theorem raiseContractFault_tlen (cs : BitVec 2) (s : State) : (raiseContractFault cs s).tlen = s.tlen := rfl
@[simp] theorem raiseContractFault_pos (cs : BitVec 2) (s : State) : (raiseContractFault cs s).pos = s.pos := rfl
@[simp] theorem raiseContractFault_len (cs : BitVec 2) (s : State) : (raiseContractFault cs s).len = s.len := rfl
@[simp] theorem raiseContractFault_out (cs : BitVec 2) (s : State) : (raiseContractFault cs s).out = s.out := rfl
@[simp] theorem raiseContractFault_freeCtr (cs : BitVec 2) (s : State) : (raiseContractFault cs s).freeCtr = s.freeCtr := rfl

/-! `resetStep` clears five registers and leaves OUT, the ports, the host's actions and the counter. -/

@[simp] theorem resetStep_phase (s : State) : (resetStep s).phase = .idle := rfl
@[simp] theorem resetStep_fault (s : State) : (resetStep s).fault = 0 := rfl
@[simp] theorem resetStep_cause (s : State) : (resetStep s).cause = 0 := rfl
@[simp] theorem resetStep_len (s : State) : (resetStep s).len = 0 := rfl
@[simp] theorem resetStep_pos (s : State) : (resetStep s).pos = 0 := rfl
@[simp] theorem resetStep_host (s : State) : (resetStep s).host = s.host := rfl
@[simp] theorem resetStep_rst (s : State) : (resetStep s).rst = s.rst := rfl
@[simp] theorem resetStep_start (s : State) : (resetStep s).start = s.start := rfl
@[simp] theorem resetStep_inBits (s : State) : (resetStep s).inBits = s.inBits := rfl
@[simp] theorem resetStep_wrEn (s : State) : (resetStep s).wrEn = s.wrEn := rfl
@[simp] theorem resetStep_wrOff (s : State) : (resetStep s).wrOff = s.wrOff := rfl
@[simp] theorem resetStep_wrData (s : State) : (resetStep s).wrData = s.wrData := rfl
@[simp] theorem resetStep_out (s : State) : (resetStep s).out = s.out := rfl
@[simp] theorem resetStep_freeCtr (s : State) : (resetStep s).freeCtr = s.freeCtr := rfl

/-! The levels of a quiet host. -/

@[simp] theorem quiet_rst (s : State) : (Ports.quiet s).rst = false := rfl
@[simp] theorem quiet_start (s : State) : (Ports.quiet s).start = false := rfl
@[simp] theorem quiet_inBits (s : State) : (Ports.quiet s).inBits = s.inBits := rfl

end Sys2Proof.Machine
end

