-- ==== Sys2Proof/Laws/Step.lean ====
section
/-! SUPPORT. What an instruction, a step of the block and a step of the machine can do, said once. -/

namespace Sys2Proof.Machine

/-! Every phase's meaning answers its rule. -/

@[simp] theorem exec_idle (s : State) : exec .idle s = .next (ruleIdle s) := rfl
@[simp] theorem exec_decode (s : State) : exec .decode s = .next (ruleDecode s) := rfl
@[simp] theorem exec_signw (s : State) : exec .signw s = .next (ruleSignw s) := rfl
@[simp] theorem exec_zero (s : State) : exec .zero s = .next (ruleZero s) := rfl
@[simp] theorem exec_normal (s : State) : exec .normal s = .next (ruleNormal s) := rfl
@[simp] theorem exec_subnormal (s : State) : exec .subnormal s = .next (ruleSubnormal s) := rfl
@[simp] theorem exec_fastint (s : State) : exec .fastint s = .next (ruleFastint s) := rfl
@[simp] theorem exec_bounds (s : State) : exec .bounds s = .next (ruleBounds s) := rfl
@[simp] theorem exec_expk (s : State) : exec .expk s = .next (ruleExpk s) := rfl
@[simp] theorem exec_shifth (s : State) : exec .shifth s = .next (ruleShifth s) := rfl
@[simp] theorem exec_lut (s : State) : exec .lut s = .next (ruleLut s) := rfl
@[simp] theorem exec_mull (s : State) : exec .mull s = .next (ruleMull s) := rfl
@[simp] theorem exec_mulc (s : State) : exec .mulc s = .next (ruleMulc s) := rfl
@[simp] theorem exec_mulr (s : State) : exec .mulr s = .next (ruleMulr s) := rfl
@[simp] theorem exec_interval (s : State) : exec .interval s = .next (ruleInterval s) := rfl
@[simp] theorem exec_shorter (s : State) : exec .shorter s = .next (ruleShorter s) := rfl
@[simp] theorem exec_direct (s : State) : exec .direct s = .next (ruleDirect s) := rfl
@[simp] theorem exec_tie (s : State) : exec .tie s = .next (ruleTie s) := rfl
@[simp] theorem exec_digits (s : State) : exec .digits s = .next (ruleDigits s) := rfl
@[simp] theorem exec_layout (s : State) : exec .layout s = .next (ruleLayout s) := rfl
@[simp] theorem exec_emit (s : State) : exec .emit s = .next (ruleEmit s) := rfl
@[simp] theorem exec_done (s : State) : exec .done s = .next (ruleDone s) := rfl
@[simp] theorem exec_fault (s : State) : exec .fault s = .next (ruleFault s) := rfl

/-! Every character's meaning emits its byte. -/

@[simp] theorem exec_chr0 (s : State) : exec .chr0 s = .next (emitByte 0x30 s) := rfl
@[simp] theorem exec_chr1 (s : State) : exec .chr1 s = .next (emitByte 0x31 s) := rfl
@[simp] theorem exec_chr2 (s : State) : exec .chr2 s = .next (emitByte 0x32 s) := rfl
@[simp] theorem exec_chr3 (s : State) : exec .chr3 s = .next (emitByte 0x33 s) := rfl
@[simp] theorem exec_chr4 (s : State) : exec .chr4 s = .next (emitByte 0x34 s) := rfl
@[simp] theorem exec_chr5 (s : State) : exec .chr5 s = .next (emitByte 0x35 s) := rfl
@[simp] theorem exec_chr6 (s : State) : exec .chr6 s = .next (emitByte 0x36 s) := rfl
@[simp] theorem exec_chr7 (s : State) : exec .chr7 s = .next (emitByte 0x37 s) := rfl
@[simp] theorem exec_chr8 (s : State) : exec .chr8 s = .next (emitByte 0x38 s) := rfl
@[simp] theorem exec_chr9 (s : State) : exec .chr9 s = .next (emitByte 0x39 s) := rfl
@[simp] theorem exec_chrMinus (s : State) : exec .chrMinus s = .next (emitByte 0x2D s) := rfl
@[simp] theorem exec_chrPlus (s : State) : exec .chrPlus s = .next (emitByte 0x2B s) := rfl
@[simp] theorem exec_chrPoint (s : State) : exec .chrPoint s = .next (emitByte 0x2E s) := rfl
@[simp] theorem exec_chrE (s : State) : exec .chrE s = .next (emitByte 0x65 s) := rfl

/-- PHASE selects the instruction whose meaning is the phase rule. -/
theorem exec_phase_instr (s : State) : exec s.phase.instr s = .next (phaseRule s) := by
  unfold phaseRule
  cases s.phase <;> rfl

/-- The class of a word decides nothing by itself: every class converts the word. -/
theorem exec_decodeOperand (w : Word) (s : State) : ∃ w', exec (decodeOperand w) s = .next (convertWord w' s) := by
  unfold decodeOperand
  split
  · exact ⟨_, rfl⟩
  · split
    · exact ⟨_, rfl⟩
    · split
      · exact ⟨_, rfl⟩
      · split <;> exact ⟨_, rfl⟩

/-- A step of the block answers a next state: reset's, or the phase rule's. -/
theorem blockStep_eq (p : Ports) (s : State) :
    blockStep p s = .next (if p.rst then resetStep (beginStep p s) else phaseRule (beginStep p s)) := by
  unfold blockStep
  split
  · rfl
  · exact exec_phase_instr (beginStep p s)

/-- Everything a step of the machine can answer as a next state. -/
theorem step_next_cases {s t : State} (h : step s = .next t) :
    (s.host = [] ∧ blockStep (Ports.quiet s) s = .next t) ∨
    (∃ p rest, s.host = .drive p :: rest ∧ blockStep p { s with host := rest } = .next t) ∨
    (∃ w rest, s.host = .convert w :: rest ∧ exec (decodeOperand w) { s with host := rest } = .next t) ∨
    (∃ off b rest, s.host = .write off b :: rest ∧ s.busy = false ∧
      t = { s with host := rest, out := s.out.write off.toNat b }) := by
  unfold step at h
  split at h
  · exact .inl ⟨‹_›, h⟩
  · exact .inr (.inl ⟨_, _, ‹_›, h⟩)
  · exact .inr (.inr (.inl ⟨_, _, ‹_›, h⟩))
  · rename_i off b rest hs
    unfold hostWrite at h
    split at h
    · cases h
    · rename_i hb
      cases h
      exact .inr (.inr (.inr ⟨off, b, rest, hs, by simpa [State.busy] using hb, rfl⟩))

/-- What emission of a byte does. -/
theorem emitByte_cases (b : Byte) (s : State) :
    (s.bodyIndex + 1 = s.tlen.toNat ∧ emitByte b s =
      { memWrite s.pos b s with
        pos := fitU 5 (s.pos.toNat + 1) .pos s, len := fitU 5 (s.pos.toNat + 1) .pos s, phase := .done }) ∨
    (s.bodyIndex + 1 ≠ s.tlen.toNat ∧ emitByte b s =
      { memWrite s.pos b s with pos := fitU 5 (s.pos.toNat + 1) .pos s, phase := .emit }) := by
  unfold emitByte
  split
  · exact .inl ⟨‹_›, rfl⟩
  · exact .inr ⟨‹_›, rfl⟩

/-- What SIGNW does. -/
theorem ruleSignw_cases (s : State) : ∃ p : Phase, (p = .zero ∨ p = .normal ∨ p = .subnormal) ∧
    ((s.sign = 1 ∧ ruleSignw s =
        { memWrite s.pos 0x2D s with pos := fitU 5 (s.pos.toNat + 1) .pos s, phase := p }) ∨
      (s.sign ≠ 1 ∧ ruleSignw s = { s with phase := p })) := by
  refine ⟨if isZero s.ef s.mf then .zero else if isNormal s.ef then .normal else .subnormal, ?_, ?_⟩
  · split
    · exact .inl rfl
    · split
      · exact .inr (.inl rfl)
      · exact .inr (.inr rfl)
  · unfold ruleSignw
    by_cases h : s.sign = 1
    · exact .inl ⟨h, by simp only [if_pos h]⟩
    · exact .inr ⟨h, by simp only [if_neg h]⟩

/-- What LUT does. -/
theorem ruleLut_cases (s : State) :
    ((-s.k.toInt < -31 ∨ 45 < -s.k.toInt) ∧ ruleLut s = raiseContractFault 1 s) ∨
    (-31 ≤ -s.k.toInt ∧ -s.k.toInt ≤ 45 ∧ (s.h.toNat < 1 ∨ 4 < s.h.toNat) ∧ ruleLut s = raiseContractFault 2 s) ∨
    (-31 ≤ -s.k.toInt ∧ -s.k.toInt ≤ 45 ∧ 1 ≤ s.h.toNat ∧ s.h.toNat ≤ 4 ∧
      ruleLut s = { s with g := pow10 (-s.k.toInt), phase := .mull }) := by
  unfold ruleLut
  by_cases h1 : -s.k.toInt < pow10MinE ∨ pow10MaxE < -s.k.toInt
  · exact .inl ⟨by simpa using h1, by rw [if_pos h1]⟩
  · rw [if_neg h1]
    simp only [pow10MinE, pow10MaxE, not_or, not_lt] at h1
    by_cases h2 : s.h.toNat < 1 ∨ 4 < s.h.toNat
    · exact .inr (.inl ⟨h1.1, h1.2, h2, by rw [if_pos h2]⟩)
    · rw [if_neg h2]
      simp only [not_or, not_lt] at h2
      exact .inr (.inr ⟨h1.1, h1.2, h2.1, h2.2, rfl⟩)

end Sys2Proof.Machine
end

