-- ==== Sys2Proof/Tests/Slice0.lean ====
section
/-! SUPPORT. The model's own tests: words written out from the spec's encodings, the well-formedness checks, one step of
each instruction on the spec's own vectors (spec/95_test_vectors.md), and for every statement with hypotheses a state that
meets them. -/

namespace Sys2Proof.Tests

open Sys2Proof.Machine

/-- The next state, where there is one, passes the check. -/
def next (o : Host.Outcome State Fault Refusal) (check : State → Bool) : Bool :=
  match o with
  | .next t => check t
  | .fault _ => false
  | .refused _ => false

/-! ## Well-formedness: an ill-formed term for each check (R62) -/

theorem test_subnormal_needs_mantissa : wellFormed (.convertSubnormal 0 0) = false := by decide
theorem test_fastint_needs_exponent_low : wellFormed (.convertNormalFastint 0 126 0) = false := by decide
theorem test_fastint_needs_exponent_high : wellFormed (.convertNormalFastint 0 151 0) = false := by decide
theorem test_fastint_needs_integer : wellFormed (.convertNormalFastint 0 127 1) = false := by decide
theorem test_engine_needs_normal : wellFormed (.convertNormalEngine 0 0 1) = false := by decide
theorem test_engine_needs_finite : wellFormed (.convertNormalEngine 0 255 1) = false := by decide
theorem test_engine_excludes_fastint : wellFormed (.convertNormalEngine 0 150 1) = false := by decide

/-! ## Decoding: operand words as sign, exponent field, mantissa field (R60), the vectors of section 2.1 -/

theorem test_operand_infnan : decodeOperand 0b1_11111111_00000000000000000000000 = .convertInfnan 1 0 := by decide
theorem test_operand_nan : decodeOperand 0b0_11111111_10000000000000000000000 = .convertInfnan 0 0x400000 := by decide
theorem test_operand_zero : decodeOperand 0b1_00000000_00000000000000000000000 = .convertZero 1 := by decide
theorem test_operand_subnormal : decodeOperand 0b1_00000000_11111111111111111111111 = .convertSubnormal 1 0x7FFFFF := by
  decide
theorem test_operand_fastint : decodeOperand 0b0_01111111_00000000000000000000000 = .convertNormalFastint 0 127 0 := by
  decide
theorem test_operand_engine : decodeOperand 0b0_01111111_10000000000000000000000 = .convertNormalEngine 0 127 0x400000 := by
  decide
theorem test_decode_operand_bytes :
    decodeBytes [0b00000000, 0b00000000, 0b11001000, 0b01000010] = .ok (.convertNormalFastint 0 133 0x480000) := by decide
theorem test_decode_bad_length : decodeBytes [0, 0] = .error (.badLength 2) := by decide

/-! Phase codes (R72). -/

theorem test_decode_idle : decodeBytes [0b00000000] = .ok .idle := by decide
theorem test_decode_decode : decodeBytes [0b00000001] = .ok .decode := by decide
theorem test_decode_signw : decodeBytes [0b00000010] = .ok .signw := by decide
theorem test_decode_zero : decodeBytes [0b00000011] = .ok .zero := by decide
theorem test_decode_normal : decodeBytes [0b00000100] = .ok .normal := by decide
theorem test_decode_subnormal : decodeBytes [0b00000101] = .ok .subnormal := by decide
theorem test_decode_fastint : decodeBytes [0b00000110] = .ok .fastint := by decide
theorem test_decode_bounds : decodeBytes [0b00000111] = .ok .bounds := by decide
theorem test_decode_expk : decodeBytes [0b00001000] = .ok .expk := by decide
theorem test_decode_shifth : decodeBytes [0b00001001] = .ok .shifth := by decide
theorem test_decode_lut : decodeBytes [0b00001010] = .ok .lut := by decide
theorem test_decode_mull : decodeBytes [0b00001011] = .ok .mull := by decide
theorem test_decode_mulc : decodeBytes [0b00001100] = .ok .mulc := by decide
theorem test_decode_mulr : decodeBytes [0b00001101] = .ok .mulr := by decide
theorem test_decode_interval : decodeBytes [0b00001110] = .ok .interval := by decide
theorem test_decode_shorter : decodeBytes [0b00001111] = .ok .shorter := by decide
theorem test_decode_direct : decodeBytes [0b00010000] = .ok .direct := by decide
theorem test_decode_tie : decodeBytes [0b00010001] = .ok .tie := by decide
theorem test_decode_digits : decodeBytes [0b00010010] = .ok .digits := by decide
theorem test_decode_layout : decodeBytes [0b00010011] = .ok .layout := by decide
theorem test_decode_emit : decodeBytes [0b00010100] = .ok .emit := by decide
theorem test_decode_done : decodeBytes [0b00010101] = .ok .done := by decide
theorem test_decode_fault : decodeBytes [0b00010110] = .ok .fault := by decide
theorem test_reserved_phase : decodeBytes [0b00011111] = .error (.reservedPhase 31) := by decide

/-! Character codes (R70). -/

theorem test_decode_chr0 : decodeBytes [0b00110000] = .ok .chr0 := by decide
theorem test_decode_chr1 : decodeBytes [0b00110001] = .ok .chr1 := by decide
theorem test_decode_chr2 : decodeBytes [0b00110010] = .ok .chr2 := by decide
theorem test_decode_chr3 : decodeBytes [0b00110011] = .ok .chr3 := by decide
theorem test_decode_chr4 : decodeBytes [0b00110100] = .ok .chr4 := by decide
theorem test_decode_chr5 : decodeBytes [0b00110101] = .ok .chr5 := by decide
theorem test_decode_chr6 : decodeBytes [0b00110110] = .ok .chr6 := by decide
theorem test_decode_chr7 : decodeBytes [0b00110111] = .ok .chr7 := by decide
theorem test_decode_chr8 : decodeBytes [0b00111000] = .ok .chr8 := by decide
theorem test_decode_chr9 : decodeBytes [0b00111001] = .ok .chr9 := by decide
theorem test_decode_chrMinus : decodeBytes [0b00101101] = .ok .chrMinus := by decide
theorem test_decode_chrPlus : decodeBytes [0b00101011] = .ok .chrPlus := by decide
theorem test_decode_chrPoint : decodeBytes [0b00101110] = .ok .chrPoint := by decide
theorem test_decode_chrE : decodeBytes [0b01100101] = .ok .chrE := by decide
theorem test_not_a_character : decodeBytes [0b01000101] = .error (.notACharacter 0x45) := by decide

/-! Table words, and a table word run as the first instruction after reset. -/

theorem test_table_operand : decodeTableWord 32 0x7F800000 = some (.convertInfnan 0 0) := by decide
theorem test_table_phase : decodeTableWord 8 10 = some .lut := by decide
theorem test_table_chr : decodeTableWord 8 0x65 = some .chrE := by decide
theorem test_table_reserved : decodeTableWord 8 23 = none := by decide
theorem test_fetch_operand :
    next (step (State.reset.withFetchWord 32 0x7F800000)) (fun t => t.phase == .done && t.ef == 255 && t.len == 0) = true := by
  decide +kernel
theorem test_fetch_phase : next (step (State.reset.withFetchWord 8 8)) (fun t => t.phase == .shifth && t.k == 0) = true := by
  decide +kernel
theorem test_fetch_chr :
    next (step (State.reset.withFetchWord 8 0x65)) (fun t => t.out.read? 0 == some 0x65 && t.pos == 1) = true := by
  decide +kernel

/-! ## Tables (R44, R46) -/

theorem test_pow10_length : pow10Table.length = 77 := by decide
theorem test_pow10_first : pow10 (-31) = 0x81CEB32C4B43FCF5 := by decide
theorem test_pow10_zero : pow10 0 = 0x8000000000000000 := by decide
theorem test_pow10_last : pow10 45 = 0xB35DBF821AE4F38C := by decide
theorem test_pair : pair 5 = (0x30, 0x35) ∧ pair 38 = (0x33, 0x38) ∧ pair 99 = (0x39, 0x39) := by decide

/-! ## One step of each phase, on the vectors of sections 2.2 to 2.10 -/

theorem test_idle_start :
    next (exec .idle { State.reset with start := true, inBits := 0x3F800000, len := 4, pos := 4 })
      (fun t => t.raw == 0x3F800000 && t.len == 0 && t.pos == 0 && t.phase == .decode) = true := by decide
theorem test_done_holds :
    next (exec .done { State.reset with phase := .done, len := 4 }) (fun t => t.phase == .done && t.len == 4) = true := by
  decide
theorem test_done_start :
    next (exec .done { State.reset with phase := .done, len := 4, start := true, inBits := 7 })
      (fun t => t.phase == .decode && t.len == 0 && t.raw == 7) = true := by decide
theorem test_decode_fields :
    next (exec .decode { State.reset with raw := 0xBDCCCCCD })
      (fun t => t.sign == 1 && t.ef == 123 && t.mf == 0x4CCCCD && t.phase == .signw) = true := by decide
theorem test_decode_unsupported :
    next (exec .decode { State.reset with raw := 0xFF800000, len := 9 })
      (fun t => t.sign == 1 && t.ef == 255 && t.len == 0 && t.phase == .done && t.out == []) = true := by decide
theorem test_signw_minus :
    next (exec .signw { State.reset with sign := 1, ef := 123, mf := 0x4CCCCD })
      (fun t => t.out == [(0, 0x2D)] && t.pos == 1 && t.wrEn && t.phase == .normal) = true := by decide
theorem test_signw_zero :
    next (exec .signw State.reset) (fun t => t.out == [] && t.pos == 0 && t.phase == .zero) = true := by decide
theorem test_zero :
    next (exec .zero State.reset) (fun t => t.txt[0] == 0x30 && t.tlen == 1 && t.phase == .emit) = true := by decide
theorem test_normal_fast :
    next (exec .normal { State.reset with ef := 133, mf := 0x480000 })
      (fun t => t.c == 13107200 && t.q.toInt == -17 && t.phase == .fastint) = true := by decide
theorem test_normal_just_below_one :
    next (exec .normal { State.reset with ef := 126, mf := 0 })
      (fun t => t.c == 8388608 && t.q.toInt == -24 && t.phase == .bounds) = true := by decide
theorem test_subnormal :
    next (exec .subnormal { State.reset with mf := 0x7FFFFF })
      (fun t => t.c == 8388607 && t.q.toInt == -149 && t.phase == .bounds) = true := by decide
theorem test_fastint :
    next (exec .fastint { State.reset with c := 13107200, q := BitVec.ofInt 9 (-17) })
      (fun t => t.sig == 100 && t.exp == 0 && t.phase == .digits) = true := by decide
theorem test_bounds_irregular :
    next (exec .bounds { State.reset with c := 8388608, ef := 151 })
      (fun t => t.irr == 1 && t.cbl == 33554431 && t.cb == 33554432 && t.cbr == 33554434) = true := by decide
theorem test_bounds_smallest_normal :
    next (exec .bounds { State.reset with c := 8388608, ef := 1 })
      (fun t => t.irr == 0 && t.cbl == 33554430 && t.phase == .expk) = true := by decide
theorem test_expk_floor :
    next (exec .expk { State.reset with q := BitVec.ofInt 9 (-27) }) (fun t => t.k.toInt == -9 && t.phase == .shifth) = true := by
  decide
theorem test_expk_irregular :
    next (exec .expk { State.reset with q := 0, irr := 1 }) (fun t => t.k.toInt == -1) = true := by decide
theorem test_shifth_negative_power :
    next (exec .shifth { State.reset with q := 46, k := 13 }) (fun t => t.h == 3 && t.phase == .lut) = true := by decide
theorem test_shifth_0_1 :
    next (exec .shifth { State.reset with q := BitVec.ofInt 9 (-27), k := BitVec.ofInt 7 (-9) }) (fun t => t.h == 3) = true := by
  decide
theorem test_lut_read :
    next (exec .lut { State.reset with k := BitVec.ofInt 7 (-9), h := 3 })
      (fun t => t.g == 0xEE6B280000000000 && t.phase == .mull && t.fault == 0) = true := by decide
theorem test_lut_both_tests_fail :
    next (exec .lut { State.reset with k := 32, h := 0 })
      (fun t => t.g == 0 && t.phase == .fault && t.fault == 1 && t.cause == 1) = true := by decide
theorem test_mull :
    next (exec .mull { State.reset with g := 0xA3D70A3D70A3D70B, cbl := 46874998, h := 2 })
      (fun t => t.vbl == 119999995 && t.phase == .mulc) = true := by decide
theorem test_mulc_small_low_half :
    next (exec .mulc { State.reset with g := 0xA3D70A3D70A3D70B, cb := 46875000, h := 2 })
      (fun t => t.vb == 120000000 && t.phase == .mulr) = true := by decide
theorem test_mulr :
    next (exec .mulr { State.reset with g := 0xEE6B280000000000, cbr := 53687094, h := 3 })
      (fun t => t.vbr == 400000021 && t.phase == .interval) = true := by decide
theorem test_interval_odd :
    next (exec .interval { State.reset with c := 13421773, vbl := 399999991, vb := 400000005, vbr := 400000021 })
      (fun t => t.lower == 399999992 && t.upper == 400000020 && t.sReg == 100000001 && t.phase == .shorter) = true := by
  decide
theorem test_interval_even :
    next (exec .interval { State.reset with c := 11368684, vbl := 399999991, vb := 400000009, vbr := 400000025 })
      (fun t => t.lower == 399999991 && t.upper == 400000025) = true := by decide
theorem test_shorter_lower :
    next (exec .shorter
        { State.reset with sReg := 100000001, lower := 399999992, upper := 400000020, k := BitVec.ofInt 7 (-9) })
      (fun t => t.sig == 10000000 && t.exp.toInt == -8 && t.phase == .digits) = true := by decide
theorem test_shorter_upper :
    next (exec .shorter { State.reset with sReg := 9, lower := 38, upper := 42, k := BitVec.ofInt 7 (-45) })
      (fun t => t.sig == 1 && t.exp.toInt == -44 && t.phase == .digits) = true := by decide
theorem test_direct_upper :
    next (exec .direct { State.reset with sReg := 2, lower := 9, upper := 15, k := BitVec.ofInt 7 (-45) })
      (fun t => t.sig == 3 && t.exp.toInt == -45 && t.phase == .digits) = true := by decide
theorem test_direct_both :
    next (exec .direct { State.reset with sReg := 20971522, lower := 83886086, upper := 83886094, k := BitVec.ofInt 7 (-1) })
      (fun t => t.sig == 0 && t.phase == .tie) = true := by decide
theorem test_tie_exact_odd :
    next (exec .tie { State.reset with sReg := 20971527, vb := 83886110, k := BitVec.ofInt 7 (-1) })
      (fun t => t.sig == 20971528 && t.exp.toInt == -1 && t.phase == .digits) = true := by decide
theorem test_tie_down :
    next (exec .tie { State.reset with sReg := 31415927, vb := 125663709, k := BitVec.ofInt 7 (-7) })
      (fun t => t.sig == 31415927) = true := by decide
theorem test_digits_odd_count :
    next (exec .digits { State.reset with sig := 1500000 })
      (fun t => t.dig.toList == [0, 0, 0x31, 0x35, 0x30, 0x30, 0x30, 0x30, 0x30] && t.n == 7 && t.nk == 2) = true := by
  decide +kernel
theorem test_digits_nine :
    next (exec .digits { State.reset with sig := 100000105 })
      (fun t => t.dig.toList == [0x31, 0x30, 0x30, 0x30, 0x30, 0x30, 0x31, 0x30, 0x35] && t.n == 9 && t.nk == 9) = true := by
  decide +kernel

/-- DIG, N and NK as DIGITS leaves them for 100000075. -/
def nineDigits : State :=
  { State.reset with dig := #v[0x31, 0x30, 0x30, 0x30, 0x30, 0x30, 0x30, 0x37, 0x35], n := 9, nk := 9 }

/-- DIG, N and NK as DIGITS leaves them for 10000000. -/
def oneThenZeros : State :=
  { State.reset with dig := #v[0, 0x31, 0x30, 0x30, 0x30, 0x30, 0x30, 0x30, 0x30], n := 8, nk := 1 }

theorem test_layout_sci :
    next (exec .layout { nineDigits with exp := BitVec.ofInt 7 (-44) })
      (fun t => t.mode == .sci && t.se.toInt == -36 && t.tlen == 14 &&
        t.txt.toList.take 14 == [0x31, 0x2E, 0x30, 0x30, 0x30, 0x30, 0x30, 0x30, 0x37, 0x35, 0x65, 0x2D, 0x33, 0x36]) = true := by
  decide +kernel
theorem test_layout_small :
    next (exec .layout { oneThenZeros with exp := BitVec.ofInt 7 (-8) })
      (fun t => t.mode == .fixedSmall && t.dpp == 0 && t.tlen == 3 && t.txt.toList.take 3 == [0x30, 0x2E, 0x31]) = true := by
  decide +kernel
theorem test_text_is_stated_in_R19s_range :
    textStated 33 41 = false ∧ textStated (-46) (-38) = false ∧ textStated 32 40 = true ∧ textStated (-45) (-44) = true := by
  decide
theorem test_emit_middle :
    next (exec .emit { State.reset with phase := .emit, sign := 1, pos := 2, tlen := 3, txt := storeText State.reset.txt [0x30, 0x2E, 0x31] })
      (fun t => t.out == [(2, 0x2E)] && t.pos == 3 && t.phase == .emit && t.len == 0) = true := by decide +kernel
theorem test_emit_last :
    next (exec .emit { State.reset with phase := .emit, sign := 1, pos := 3, tlen := 3, txt := storeText State.reset.txt [0x30, 0x2E, 0x31] })
      (fun t => t.out == [(3, 0x31)] && t.pos == 4 && t.phase == .done && t.len == 4) = true := by decide +kernel
theorem test_fault_absorbs :
    next (exec .fault { State.reset with phase := .fault, fault := 1, cause := 2, start := true })
      (fun t => t.phase == .fault && t.cause == 2 && t.status == 0x500) = true := by decide

/-! The characters: the one byte "x" of a body is written at offset 0 and completes it. -/

/-- A body of one byte. -/
def oneByteBody : State := { State.reset with phase := .emit, tlen := 1 }

theorem test_chr0 : next (exec .chr0 oneByteBody) (fun t => t.out == [(0, 0x30)] && t.len == 1) = true := by decide
theorem test_chr1 : next (exec .chr1 oneByteBody) (fun t => t.out == [(0, 0x31)] && t.len == 1) = true := by decide
theorem test_chr2 : next (exec .chr2 oneByteBody) (fun t => t.out == [(0, 0x32)] && t.len == 1) = true := by decide
theorem test_chr3 : next (exec .chr3 oneByteBody) (fun t => t.out == [(0, 0x33)] && t.len == 1) = true := by decide
theorem test_chr4 : next (exec .chr4 oneByteBody) (fun t => t.out == [(0, 0x34)] && t.len == 1) = true := by decide
theorem test_chr5 : next (exec .chr5 oneByteBody) (fun t => t.out == [(0, 0x35)] && t.len == 1) = true := by decide
theorem test_chr6 : next (exec .chr6 oneByteBody) (fun t => t.out == [(0, 0x36)] && t.len == 1) = true := by decide
theorem test_chr7 : next (exec .chr7 oneByteBody) (fun t => t.out == [(0, 0x37)] && t.len == 1) = true := by decide
theorem test_chr8 : next (exec .chr8 oneByteBody) (fun t => t.out == [(0, 0x38)] && t.len == 1) = true := by decide
theorem test_chr9 : next (exec .chr9 oneByteBody) (fun t => t.out == [(0, 0x39)] && t.len == 1) = true := by decide
theorem test_chrMinus : next (exec .chrMinus oneByteBody) (fun t => t.out == [(0, 0x2D)] && t.len == 1) = true := by decide
theorem test_chrPlus : next (exec .chrPlus oneByteBody) (fun t => t.out == [(0, 0x2B)] && t.len == 1) = true := by decide
theorem test_chrPoint : next (exec .chrPoint oneByteBody) (fun t => t.out == [(0, 0x2E)] && t.len == 1) = true := by decide
theorem test_chrE : next (exec .chrE oneByteBody) (fun t => t.out == [(0, 0x65)] && t.len == 1) = true := by decide

/-! ## Whole conversions (section 2.9) -/

/-- The text a CONVERT of the word leaves in OUT, with LEN checked against it. -/
def text (w : Word) : Option (List Byte) :=
  match exec (decodeOperand w) State.reset with
  | .next t => if t.done && t.len.toNat == t.out.length then some (t.out.map Prod.snd) else none
  | _ => none

theorem test_convert_infnan : text 0xFF800000 = some [] := by decide +kernel
theorem test_convert_zero : text 0x80000000 = some [0x2D, 0x30] := by decide +kernel
theorem test_convert_subnormal : text 0x00000002 = some [0x33, 0x65, 0x2D, 0x34, 0x35] := by decide +kernel
theorem test_convert_fastint : text 0x42C80000 = some [0x31, 0x30, 0x30] := by decide +kernel
theorem test_convert_engine : text 0xBDCCCCCD = some [0x2D, 0x30, 0x2E, 0x31] := by decide +kernel
theorem test_convert_longest :
    text 0xE0AD78EC = some ([0x2D, 0x31] ++ List.replicate 20 0x30) := by decide +kernel

/-! ## The step -/

theorem test_reset_wins_over_start :
    next (step { State.reset with phase := .emit, pos := 5, host := [.drive { rst := true, start := true, inBits := 1 }] })
      (fun t => t.phase == .idle && t.pos == 0 && !t.wrEn && t.out == []) = true := by decide +kernel
theorem test_start_while_busy_is_ignored :
    next (step
        { State.reset with
          phase := .subnormal, mf := 2, raw := 2, host := [.drive { rst := false, start := true, inBits := 0x3F800000 }] })
      (fun t => t.phase == .bounds && t.raw == 2 && t.c == 2) = true := by decide +kernel
theorem test_host_write : next (step { State.reset with host := [.write 31 0xAA] }) (fun t => t.out == [(31, 0xAA)]) = true := by
  decide +kernel
theorem test_status_done : ({ State.reset with phase := .done, len := 22 } : State).status = 0x0B5 := by decide

/-! ## Witnesses: what meets the hypotheses of each statement, clause by clause -/

open Sys2Proof.Safety

theorem witness_DecodeOfEncodeIsTheInstruction :
    WellFormed (.convertNormalFastint 1 150 0x7FFFFF) ∧ WellFormed (.convertNormalEngine 0 254 0) ∧ WellFormed .lut := by
  decide

theorem witness_DecodedBytesReencode :
    decodeBytes [0x01, 0x00, 0x00, 0x80] = .ok (.convertSubnormal 1 1) ∧ decodeBytes [22] = .ok .fault := by decide

theorem witness_StepRunsTheDecodedInstruction :
    (decodePhase State.reset.phase.code = .ok .idle ∧ State.reset.host = []) ∧
    (∃ (s : State) (p : Ports) (rest : List HostAction), decodePhase s.phase.code = .ok .emit ∧
      s.host = .drive p :: rest ∧ p.rst = false) ∧
    (∃ (s : State) (w : Word) (rest : List HostAction), decodeBytes (bytesOfWord w) = .ok (.convertZero 1) ∧ s.host = .convert w :: rest) := by
  refine ⟨by decide, ⟨{ State.reset with phase := .emit, host := [.drive ⟨false, true, 9⟩] }, _, _, by decide, rfl, rfl⟩,
    ⟨{ State.reset with host := [.convert 0x80000000] }, _, _, by decide, rfl⟩⟩

theorem witness_EmitStepRunsTheDecodedCharacter :
    ∃ (s : State) (p : Ports) (rest : List HostAction), s.phase = .emit ∧ s.host = .drive p :: rest ∧ p.rst = false ∧ s.sign.toNat ≤ s.pos.toNat ∧
      s.txt[s.pos.toNat - s.sign.toNat]? = some 0x65 ∧ decodeBytes [0x65] = .ok .chrE ∧ 32 ≤ (0x65 : Byte).toNat :=
  ⟨{ State.reset with
      phase := .emit, sign := 1, pos := 2, tlen := 5, txt := storeText State.reset.txt [0x31, 0x65, 0x2D, 0x34, 0x35]
      host := [.drive ⟨false, false, 0⟩] }, _, _, rfl, rfl, rfl, by decide, by decide, by decide, by decide⟩

theorem witness_StartTakesTheOperandOnlyWhenReady :
    (∃ s : State, s.start = true) ∧ (∃ s : State, s.start = false) ∧
    (∃ (s t : State), Phase.emit ≠ .idle ∧ Phase.emit ≠ .done ∧ exec Phase.emit.instr s = .next t) :=
  ⟨⟨{ State.reset with start := true }, rfl⟩, ⟨State.reset, rfl⟩, ⟨State.reset, _, by decide, by decide, rfl⟩⟩

theorem witness_SignwWritesMinusAndDispatches :
    (∃ s : State, s.pos.toNat < 31 ∧ s.sign = 1) ∧ (∃ s : State, s.pos.toNat < 31 ∧ s.sign = 0) :=
  ⟨⟨{ State.reset with sign := 1, pos := 30 }, by decide⟩, ⟨State.reset, by decide⟩⟩

theorem witness_FastintShiftsTheSignificand :
    (∃ s : State, s.q.toInt = -23 ∧ -23 ≤ s.q.toInt ∧ s.q.toInt ≤ 0) ∧
    (∃ s : State, s.q.toInt = 0 ∧ -23 ≤ s.q.toInt ∧ s.q.toInt ≤ 0) :=
  ⟨⟨{ State.reset with q := BitVec.ofInt 9 (-23), c := 8388608 }, by decide⟩, ⟨{ State.reset with c := 16777215 }, by decide⟩⟩

theorem witness_BoundsScalesTheNeighbours : ∃ s : State, 1 ≤ s.c.toNat := ⟨{ State.reset with c := 1 }, by decide⟩

theorem witness_ExpkIsTheExactDecimalExponent :
    (∃ s : State, -149 ≤ s.q.toInt ∧ s.q.toInt ≤ 104 ∧ s.irr = 0) ∧
    (∃ s : State, -149 ≤ s.q.toInt ∧ s.q.toInt ≤ 104 ∧ s.irr = 1) :=
  ⟨⟨{ State.reset with q := BitVec.ofInt 9 (-149) }, by decide⟩, ⟨{ State.reset with q := 104, irr := 1 }, by decide⟩⟩

theorem witness_DecimalExponentStaysInTheTable :
    Reference.classOf 0x00000001 = .subnormal ∧ Reference.classOf 0x7F7FFFFF = .normalEngine := by decide

theorem witness_ShifthAlignsWithFloor :
    (∃ s : State, -149 ≤ s.q.toInt ∧ s.q.toInt ≤ 104 ∧ s.k.toInt = s.q.toInt * 1262611 / 2 ^ 22) ∧
    (∃ s : State, -149 ≤ s.q.toInt ∧ s.q.toInt ≤ 104 ∧
      (-148 ≤ s.q.toInt ∧ s.k.toInt = (s.q.toInt * 1262611 - 524031) / 2 ^ 22)) :=
  ⟨⟨{ State.reset with q := BitVec.ofInt 9 (-149), k := BitVec.ofInt 7 (-45) }, by decide⟩,
    ⟨{ State.reset with q := 0, k := BitVec.ofInt 7 (-1) }, by decide⟩⟩

theorem witness_LutReadsOrRaisesContractFault :
    (∃ s : State, 45 < -s.k.toInt) ∧ (∃ s : State, -s.k.toInt < -31) ∧
    (∃ s : State, -31 ≤ -s.k.toInt ∧ -s.k.toInt ≤ 45 ∧ s.h.toNat < 1) ∧
    (∃ s : State, -31 ≤ -s.k.toInt ∧ -s.k.toInt ≤ 45 ∧ 4 < s.h.toNat) ∧
    (∃ s : State, -31 ≤ -s.k.toInt ∧ -s.k.toInt ≤ 45 ∧ 1 ≤ s.h.toNat ∧ s.h.toNat ≤ 4) :=
  ⟨⟨{ State.reset with k := BitVec.ofInt 7 (-46), h := 1 }, by decide⟩, ⟨{ State.reset with k := 32, h := 2 }, by decide⟩,
    ⟨{ State.reset with k := BitVec.ofInt 7 (-9) }, by decide⟩, ⟨{ State.reset with k := BitVec.ofInt 7 (-9), h := 5 }, by decide⟩,
    ⟨{ State.reset with k := 31, h := 4 }, by decide⟩⟩

theorem witness_TableEntriesAreTheCeilings : (-31 : Int) ≤ -31 ∧ (-31 : Int) ≤ 45 := by decide

theorem witness_PairsAreTwoDigitCharacters : 99 ≤ 99 := by decide

theorem witness_MultipliersRoundToOdd :
    ∃ s : State, s.cbl.toNat * 2 ^ s.h.toNat < 2 ^ 30 ∧ s.cb.toNat * 2 ^ s.h.toNat < 2 ^ 30 ∧
      s.cbr.toNat * 2 ^ s.h.toNat < 2 ^ 30 :=
  ⟨{ State.reset with g := 0xEE6B280000000000, cbl := 53687090, cb := 53687092, cbr := 67108862, h := 4 }, by decide⟩

theorem witness_IntervalClosesForEvenSignificands :
    ∃ s : State, s.vbl.toNat < 2 ^ 30 ∧ 1 ≤ s.vbr.toNat ∧ s.vb.toNat < 2 ^ 30 :=
  ⟨{ State.reset with vbl := 3, vb := 5, vbr := 9, c := 1 }, by decide⟩

theorem witness_ShorterTakesTheOneCandidateInside :
    (∃ s : State, s.k.toInt ≤ 31 ∧ s.lower.toNat ≤ 40 * (s.sReg.toNat / 10) ∧
      ¬ 40 * (s.sReg.toNat / 10) + 40 ≤ s.upper.toNat) ∧
    (∃ s : State, s.k.toInt ≤ 31 ∧ ¬ s.lower.toNat ≤ 40 * (s.sReg.toNat / 10) ∧
      40 * (s.sReg.toNat / 10) + 40 ≤ s.upper.toNat) ∧
    (∃ s : State, s.k.toInt ≤ 31 ∧ (s.lower.toNat ≤ 40 * (s.sReg.toNat / 10) ↔
      40 * (s.sReg.toNat / 10) + 40 ≤ s.upper.toNat)) :=
  ⟨⟨{ State.reset with sReg := 100000001, lower := 400000000, upper := 400000039, k := 31 }, by decide⟩,
    ⟨{ State.reset with sReg := 9, lower := 38, upper := 40, k := BitVec.ofInt 7 (-45) }, by decide⟩,
    ⟨{ State.reset with sReg := 20971522, lower := 83886086, upper := 83886094 }, by decide⟩⟩

theorem witness_DirectTakesTheOneCandidateInside :
    (∃ s : State, s.lower.toNat ≤ 4 * s.sReg.toNat ∧ ¬ 4 * s.sReg.toNat + 4 ≤ s.upper.toNat) ∧
    (∃ s : State, ¬ s.lower.toNat ≤ 4 * s.sReg.toNat ∧ 4 * s.sReg.toNat + 4 ≤ s.upper.toNat) ∧
    (∃ s : State, (s.lower.toNat ≤ 4 * s.sReg.toNat ↔ 4 * s.sReg.toNat + 4 ≤ s.upper.toNat)) :=
  ⟨⟨{ State.reset with sReg := 4, lower := 16, upper := 18 }, by decide⟩,
    ⟨{ State.reset with sReg := 2, lower := 9, upper := 12 }, by decide⟩,
    ⟨{ State.reset with sReg := 1, lower := 4, upper := 8 }, by decide⟩⟩

theorem witness_ChosenDecimalIsInsideTheInterval :
    (∃ s t : State, s.sReg.toNat = s.vb.toNat / 4 ∧ s.lower.toNat ≤ s.vb.toNat ∧ s.vb.toNat ≤ s.upper.toNat ∧
      exec .shorter s = .next t ∧ t.phase = .digits) ∧
    (∃ s t : State, s.sReg.toNat = s.vb.toNat / 4 ∧ s.lower.toNat ≤ s.vb.toNat ∧ s.vb.toNat ≤ s.upper.toNat ∧
      exec .direct s = .next t ∧ t.phase = .digits) ∧
    (∃ s t : State, s.sReg.toNat = s.vb.toNat / 4 ∧ s.lower.toNat ≤ s.vb.toNat ∧ s.vb.toNat ≤ s.upper.toNat ∧
      s.lower.toNat ≤ 4 * s.sReg.toNat ∧ 4 * s.sReg.toNat + 4 ≤ s.upper.toNat ∧ exec .tie s = .next t) :=
  ⟨⟨{ State.reset with sReg := 100000001, vb := 400000005, lower := 399999992, upper := 400000020 }, _,
      by decide, by decide, by decide, rfl, by decide⟩,
    ⟨{ State.reset with sReg := 2, vb := 11, lower := 9, upper := 15 }, _, by decide, by decide, by decide, rfl, by decide⟩,
    ⟨{ State.reset with sReg := 1, vb := 5, lower := 4, upper := 8 }, _,
      by decide, by decide, by decide, by decide, by decide, rfl⟩⟩

theorem witness_DigitsAreTheDecimalDigits :
    (∃ s : State, s.sig.toNat = 1 ∧ 1 ≤ s.sig.toNat ∧ s.sig.toNat < 10 ^ 9) ∧
    (∃ s : State, s.sig.toNat = 999999999 ∧ 1 ≤ s.sig.toNat ∧ s.sig.toNat < 10 ^ 9) :=
  ⟨⟨{ State.reset with sig := 1 }, by decide⟩, ⟨{ State.reset with sig := 999999999 }, by decide⟩⟩

theorem witness_LayoutDecidesByScientificExponent :
    (∃ s : State, 1 ≤ s.n.toNat ∧ s.n.toNat ≤ 9 ∧ -45 ≤ s.exp.toInt ∧ s.exp.toInt ≤ 32 ∧
      s.n.toNat + s.exp.toInt - 1 = 20) ∧
    (∃ s : State, 1 ≤ s.n.toNat ∧ s.n.toNat ≤ 9 ∧ -45 ≤ s.exp.toInt ∧ s.exp.toInt ≤ 32 ∧
      s.n.toNat + s.exp.toInt - 1 = -7) :=
  ⟨⟨{ oneThenZeros with exp := 13 }, by decide⟩, ⟨{ oneThenZeros with exp := BitVec.ofInt 7 (-14) }, by decide⟩⟩

theorem witness_IntTextPadsWithZeros :
    ∃ (s : State) (dpp : Nat), 1 ≤ s.n.toNat ∧ s.n.toNat ≤ 9 ∧ (dpp : Int) = s.n.toNat + s.exp.toInt ∧
      s.n.toNat ≤ dpp ∧ dpp ≤ 21 :=
  ⟨{ oneThenZeros with exp := 13 }, 21, by decide⟩

theorem witness_FracTextTrimsTheFraction :
    (∃ (s : State) (dpp : Nat), s.n.toNat ≤ 9 ∧ s.nk.toNat ≤ s.n.toNat ∧ (dpp : Int) = s.n.toNat + s.exp.toInt ∧
      0 < dpp ∧ dpp < s.n.toNat ∧ dpp < s.nk.toNat) ∧
    (∃ (s : State) (dpp : Nat), s.n.toNat ≤ 9 ∧ s.nk.toNat ≤ s.n.toNat ∧ (dpp : Int) = s.n.toNat + s.exp.toInt ∧
      0 < dpp ∧ dpp < s.n.toNat ∧ s.nk.toNat ≤ dpp) :=
  ⟨⟨{ nineDigits with exp := BitVec.ofInt 7 (-1) }, 8, by decide⟩, ⟨{ oneThenZeros with exp := BitVec.ofInt 7 (-7) }, 1, by decide⟩⟩

theorem witness_SmallTextLeadsWithZeros :
    (∃ (s : State) (z : Nat), z = 0 ∧ s.n.toNat ≤ 9 ∧ 1 ≤ s.nk.toNat ∧ s.nk.toNat ≤ s.n.toNat ∧
      -(z : Int) = s.n.toNat + s.exp.toInt ∧ z ≤ 5) ∧
    (∃ (s : State) (z : Nat), z = 5 ∧ s.n.toNat ≤ 9 ∧ 1 ≤ s.nk.toNat ∧ s.nk.toNat ≤ s.n.toNat ∧
      -(z : Int) = s.n.toNat + s.exp.toInt ∧ z ≤ 5) :=
  ⟨⟨{ oneThenZeros with exp := BitVec.ofInt 7 (-8) }, 0, by decide⟩, ⟨{ nineDigits with exp := BitVec.ofInt 7 (-14) }, 5, by decide⟩⟩

theorem witness_SciTextPrintsTheScientificExponent :
    (∃ s : State, s.n.toNat ≤ 9 ∧ 1 ≤ s.nk.toNat ∧ s.nk.toNat ≤ s.n.toNat ∧ -45 ≤ s.exp.toInt ∧ s.exp.toInt ≤ 32 ∧
      s.n.toNat + s.exp.toInt - 1 = 21 ∧ s.nk.toNat = 1) ∧
    (∃ s : State, s.n.toNat ≤ 9 ∧ 1 ≤ s.nk.toNat ∧ s.nk.toNat ≤ s.n.toNat ∧ -45 ≤ s.exp.toInt ∧ s.exp.toInt ≤ 32 ∧
      s.n.toNat + s.exp.toInt - 1 = -7 ∧ 1 < s.nk.toNat) :=
  ⟨⟨{ oneThenZeros with exp := 14 }, by decide⟩, ⟨{ nineDigits with exp := BitVec.ofInt 7 (-15) }, by decide⟩⟩

theorem witness_DigitsThenLayoutStageTheLayout :
    ∃ s : State, 1 ≤ s.sig.toNat ∧ s.sig.toNat < 10 ^ 9 ∧ -45 ≤ s.exp.toInt ∧ s.exp.toInt ≤ 32 :=
  ⟨{ State.reset with sig := 34028235, exp := 31 }, by decide⟩

theorem witness_LayoutDenotesTheDecimalResult :
    1 ≤ 20971522 ∧ 20971522 < 10 ^ 9 ∧ (-45 : Int) ≤ -1 ∧ (-1 : Int) ≤ 32 := by decide

theorem witness_TrailingZerosDoNotChangeTheText :
    1 ≤ 10000000 ∧ 10000000 < 10 ^ 8 ∧ (-44 : Int) ≤ 13 ∧ (13 : Int) ≤ 32 := by decide

theorem witness_EmitWritesTheNextByte :
    (∃ s : State, s.sign.toNat ≤ s.pos.toNat ∧ s.pos.toNat < 31 ∧
      s.txt[s.pos.toNat - s.sign.toNat]? = some 0x30 ∧ s.pos.toNat - s.sign.toNat + 1 = s.tlen.toNat) ∧
    (∃ s : State, s.sign.toNat ≤ s.pos.toNat ∧ s.pos.toNat < 31 ∧
      s.txt[s.pos.toNat - s.sign.toNat]? = some 0x31 ∧ s.pos.toNat - s.sign.toNat + 1 ≠ s.tlen.toNat) :=
  ⟨⟨{ State.reset with sign := 1, pos := 21, tlen := 21, txt := Vector.replicate 21 0x30 }, by decide⟩,
    ⟨{ State.reset with tlen := 21, txt := Vector.replicate 21 0x31 }, by decide⟩⟩

theorem witness_CharactersWriteTheirCodes :
    (∃ s : State, s.pos.toNat < 31 ∧ (s.pos.toNat : Int) - s.sign.toNat + 1 = s.tlen.toNat) ∧
    (∃ s : State, s.pos.toNat < 31 ∧ (s.pos.toNat : Int) - s.sign.toNat + 1 ≠ s.tlen.toNat) :=
  ⟨⟨{ State.reset with pos := 30, sign := 1, tlen := 30 }, by decide⟩, ⟨State.reset, by decide⟩⟩

theorem witness_ReadyBlock :
    State.reset.ready = true ∧ State.reset.fault = 0 ∧ ({ State.reset with phase := .done, len := 4 } : State).ready = true := by
  decide

theorem witness_ConvertInfnanIsUnsupported :
    ({ State.reset with phase := .done, len := 22, pos := 22 } : State).ready = true := by decide

theorem witness_ConvertZeroPrintsZero : (0 : BitVec 1) ≠ 1 ∧ State.reset.ready = true := by decide

theorem witness_ConvertComputesTheReference :
    State.reset.ready = true ∧ State.reset.fault = 0 ∧
      WellFormed (.convertNormalEngine 1 193 0x2D78EC) ∧ Reference.classOf (operandWord 1 193 0x2D78EC) = .normalEngine := by
  decide

theorem witness_FastintBypassesTheEngine :
    WellFormed (.convertNormalFastint 0 127 0) ∧ WellFormed (.convertNormalFastint 1 150 0x7FFFFF) ∧
      State.reset.ready = true := by decide

theorem witness_EngineConversionLeavesTheEnginesValues :
    State.reset.ready = true ∧ Reference.classOf 0x00000001 = .subnormal ∧ Reference.classOf 0xCB800000 = .normalEngine := by
  decide

theorem witness_ConversionTakesItsSteps :
    State.reset.ready = true ∧ Reference.classOf 0x7FC00000 = .infnan ∧ Reference.classOf 0x80000000 = .zero ∧
      Reference.classOf 0x4B7FFFFF = .normalFastint := by decide

theorem witness_TieBreaksToNearestThenEven :
    (∃ s : State, s.vb.toNat = 4 * s.sReg.toNat + 2 ∧ s.sReg.toNat % 2 = 1) ∧
    (∃ s : State, s.vb.toNat = 4 * s.sReg.toNat + 2 ∧ s.sReg.toNat % 2 = 0) :=
  ⟨⟨{ State.reset with sReg := 1, vb := 6 }, by decide⟩, ⟨{ State.reset with sReg := 2, vb := 10 }, by decide⟩⟩

theorem witness_ConvertWhileNotReadyIsIgnored :
    ({ State.reset with phase := .subnormal } : State).ready = false ∧ ({ State.reset with phase := .fault } : State).ready = false := by
  decide

theorem witness_NegativeOperandsOnlyAddTheMinus : (254 : BitVec 8) ≠ 255 := by decide

theorem witness_FaultIsAbsorbing :
    ∃ (s : State) (p : Ports), s.phase = .fault ∧ p.rst = false :=
  ⟨{ State.reset with phase := .fault, fault := 1, cause := 2 }, ⟨false, true, 7⟩, rfl, rfl⟩

theorem witness_ResetOverridesEveryPhase : ∃ (s : State) (p : Ports), s.phase = .emit ∧ p.start = true ∧ p.rst = true :=
  ⟨{ State.reset with phase := .emit, pos := 5, sign := 1 }, ⟨true, true, 0⟩, rfl, rfl, rfl⟩

theorem witness_MemWriteStoresOneByte : Memory.wf [(0, 0x2D), (31, 0xAA)] = true := by decide

theorem witness_OnlySignwAndEmitWriteOut :
    (∃ (s t : State) (p : Ports), blockStep p s = .next t ∧ t.wrEn = true) ∧
    (∃ (s t : State) (p : Ports), blockStep p s = .next t ∧ t.wrEn = false) :=
  ⟨⟨{ State.reset with phase := .signw, sign := 1 }, _, ⟨false, false, 0⟩, rfl, rfl⟩,
    ⟨{ State.reset with phase := .signw, sign := 1 }, _, ⟨true, false, 0⟩, rfl, rfl⟩⟩

theorem witness_RegistersChangeOnlyInTheirPhases :
    ∃ (p : Ports) (s t : State), p.rst = false ∧ blockStep p s = .next t ∧ t.raw ≠ s.raw :=
  ⟨⟨false, true, 7⟩, State.reset, _, rfl, rfl, by decide⟩

theorem witness_HostWritesOnlyWhileNotBusy :
    (∃ (s : State) (rest : List HostAction), s.host = .write 31 0xAA :: rest ∧ s.busy = true) ∧
    (∃ (s : State) (rest : List HostAction), s.host = .write 31 0xAA :: rest ∧ s.busy = false) :=
  ⟨⟨{ State.reset with phase := .emit, host := [.write 31 0xAA] }, _, rfl, by decide⟩,
    ⟨{ State.reset with phase := .done, host := [.write 31 0xAA] }, _, rfl, by decide⟩⟩

theorem witness_EveryStepKeepsOutCanonical :
    ∃ s t : State, Memory.wf s.out = true ∧ step s = .next t ∧ t.out ≠ s.out :=
  ⟨{ State.reset with phase := .signw, sign := 1, out := [(0, 0xAA), (5, 0xAA)] }, _, by decide, rfl, by decide⟩

/-- A run in the middle of emitting "-0". -/
def emittingMinusZero : State :=
  { State.reset with
    phase := .emit, raw := 0x80000000, sign := 1, pos := 1, tlen := 1, txt := storeText State.reset.txt [0x30]
    out := [(0, 0x2D)] }

theorem witness_EveryStepKeepsTheInvariant :
    ∃ t, RunInvariant emittingMinusZero ∧ step emittingMinusZero = .next t := by
  refine ⟨_, ⟨by decide, by decide, by decide, ?_⟩, rfl⟩
  show Emitting emittingMinusZero
  unfold Emitting Holds
  decide

theorem witness_ContractFaultIsUnreachable :
    Reference.classOf 0x807FFFFF = .subnormal ∧
    (∃ t, core.run 2 { State.reset with host := [.drive ⟨true, false, 0⟩, .drive ⟨false, true, 0x7F7FFFFF⟩] } = .next t) :=
  ⟨by decide, _, rfl⟩

end Sys2Proof.Tests
end

section
/-! The block's outputs and the state after reset (R12, R13, R29). -/

namespace Sys2Proof.Machine

/-- A concatenation as a number: the low part keeps its value, the high part is scaled by the low part's width. -/
theorem toNat_append_eq_mul_add {m n : Nat} (x : BitVec m) (y : BitVec n) :
    (x ++ y).toNat = x.toNat * 2 ^ n + y.toNat := by
  rw [BitVec.toNat_append, ← Nat.shiftLeft_add_eq_or_of_lt y.isLt, Nat.shiftLeft_eq]

theorem ready_iff (s : State) : s.ready = true ↔ s.phase = .idle ∨ s.phase = .done := by
  simp [State.ready]

theorem busy_iff (s : State) : s.busy = true ↔ s.phase ≠ .idle ∧ s.phase ≠ .done ∧ s.phase ≠ .fault := by
  simp [State.busy, and_assoc]

theorem done_iff (s : State) : s.done = true ↔ s.phase = .done := by
  simp [State.done]

/-- The six fields of the status word by their weights (R13). -/
theorem status_toNat (s : State) :
    s.status.toNat = 512 * s.cause.toNat + 256 * s.fault.toNat + 8 * s.len.toNat + 4 * s.done.toNat +
      2 * s.busy.toNat + s.ready.toNat := by
  unfold State.status
  simp only [toNat_append_eq_mul_add, BitVec.toNat_ofBool]
  omega

/-- Settles O50. -/
theorem statusWordPacksTheOutputs : Obligations.StatusWordPacksTheOutputs :=
  fun s => ⟨ready_iff s, busy_iff s, done_iff s, status_toNat s⟩

/-- Settles O49: every field is a literal of `State.reset`, and the status word follows from them. -/
theorem resetStateHasTheSpecsValues : Obligations.ResetStateHasTheSpecsValues :=
  ⟨rfl, rfl, rfl, rfl, rfl, rfl, status_toNat State.reset⟩

/-- Settles O58: OUT is empty, nothing has faulted, and IDLE asks for LEN = POS = 0 only. -/
theorem resetMeetsTheInvariant : Obligations.ResetMeetsTheInvariant :=
  ⟨wf_reset, rfl, rfl, rfl, rfl⟩

end Sys2Proof.Machine
end

section
/-! What the step runs: PHASE's code and the operand word decode to the instruction that is executed (R24, R62, R72). -/

namespace Sys2Proof.Machine

/-- The code in PHASE decodes to the instruction that PHASE selects. -/
theorem decodePhase_code (p : Phase) : decodePhase p.code = .ok p.instr := by
  cases p <;> rfl

/-- The four bytes of a word are put together to the word. -/
theorem wordOfBytes_bytesOfWord (w : Word) :
    wordOfBytes (w.extractLsb' 0 8) (w.extractLsb' 8 8) (w.extractLsb' 16 8) (w.extractLsb' 24 8) = w := by
  unfold wordOfBytes
  rw [BitVec.extractLsb'_append_extractLsb'_eq_extractLsb' (show 24 = 16 + 8 from rfl),
    BitVec.extractLsb'_append_extractLsb'_eq_extractLsb' (show 16 = 8 + 8 from rfl),
    BitVec.extractLsb'_append_extractLsb'_eq_extractLsb' (show 8 = 0 + 8 from rfl)]
  exact BitVec.extractLsb'_eq_self

/-- The bytes of an operand word decode to the instruction of its class. -/
theorem decodeBytes_bytesOfWord (w : Word) : decodeBytes (bytesOfWord w) = .ok (decodeOperand w) :=
  congrArg (fun v => Except.ok (decodeOperand v)) (wordOfBytes_bytesOfWord w)

theorem step_of_no_action {s : State} (h : s.host = []) : step s = blockStep (Ports.quiet s) s := by
  simp only [step, h]

theorem step_of_drive {s : State} {p : Ports} {rest : List HostAction} (h : s.host = .drive p :: rest) :
    step s = blockStep p { s with host := rest } := by
  simp only [step, h]

theorem step_of_convert {s : State} {w : Word} {rest : List HostAction} (h : s.host = .convert w :: rest) :
    step s = exec (decodeOperand w) { s with host := rest } := by
  simp only [step, h]

/-- Without `rst` a step of the block runs the instruction PHASE selects. -/
theorem blockStep_of_rst_false {p : Ports} (s : State) (h : p.rst = false) :
    blockStep p s = exec s.phase.instr (beginStep p s) := by
  simp [blockStep, h]

/-- Settles O5: each clause is one row of `step`, and the decoder answers the instruction that row runs. -/
theorem stepRunsTheDecodedInstruction : Obligations.StepRunsTheDecodedInstruction := by
  refine ⟨fun s i hi hh => ?_, fun s i p rest hi hh hp => ?_, fun s i w rest hi hh => ?_⟩
  · obtain rfl : s.phase.instr = i := by simpa [decodePhase_code] using hi
    rw [step_of_no_action hh, blockStep_of_rst_false s (quiet_rst s)]
  · obtain rfl : s.phase.instr = i := by simpa [decodePhase_code] using hi
    rw [step_of_drive hh, blockStep_of_rst_false _ hp]
  · obtain rfl : decodeOperand w = i := by simpa [decodeBytes_bytesOfWord] using hi
    rw [step_of_convert hh]

end Sys2Proof.Machine
end

section
/-! The registers a phase rule writes (the "written by" columns of R14 to R25): every other field of the state is the one
it was given. -/

namespace Sys2Proof.Machine

/-- START takes the operand; without it the handshake changes nothing (R80). -/
theorem handshake_cases (s : State) :
    (s.start = true ∧ handshake s = { s with raw := s.inBits, pos := 0, len := 0, phase := .decode }) ∨
      (s.start = false ∧ handshake s = s) := by
  unfold handshake
  cases s.start
  · exact .inr ⟨rfl, rfl⟩
  · exact .inl ⟨rfl, rfl⟩

/-- What DECODE does (R81, R160). -/
theorem ruleDecode_cases (s : State) :
    (expField s.raw = 255 ∧ ruleDecode s =
      { s with sign := signField s.raw, ef := expField s.raw, mf := mantField s.raw, len := 0, phase := .done }) ∨
    (expField s.raw ≠ 255 ∧ ruleDecode s =
      { s with sign := signField s.raw, ef := expField s.raw, mf := mantField s.raw, phase := .signw }) := by
  by_cases h : expField s.raw = 255
  · exact .inl ⟨h, if_pos (by simpa [isInfnan] using h)⟩
  · exact .inr ⟨h, if_neg (by simpa [isInfnan] using h)⟩

/-- What SHORTER does (R112). -/
theorem ruleShorter_cases (s : State) :
    (shorterLow s.lower.toNat (s.sReg.toNat / 10) ≠ shorterHigh s.upper.toNat (s.sReg.toNat / 10) ∧ ruleShorter s =
      { s with
        sig := fitU 32 ((s.sReg.toNat / 10 : Nat) + (shorterHigh s.upper.toNat (s.sReg.toNat / 10)).toNat) .sig s
        exp := fitS 6 (s.k.toInt + 1) .exp s
        phase := .digits }) ∨
    (shorterLow s.lower.toNat (s.sReg.toNat / 10) = shorterHigh s.upper.toNat (s.sReg.toNat / 10) ∧
      ruleShorter s = { s with phase := .direct }) := by
  by_cases h : shorterLow s.lower.toNat (s.sReg.toNat / 10) = shorterHigh s.upper.toNat (s.sReg.toNat / 10)
  · exact .inr ⟨h, if_neg (by simpa using h)⟩
  · exact .inl ⟨h, if_pos (by simpa using h)⟩

/-- What DIRECT does (R113). -/
theorem ruleDirect_cases (s : State) :
    (directLow s.lower.toNat s.sReg.toNat ≠ directHigh s.upper.toNat s.sReg.toNat ∧ ruleDirect s =
      { s with
        sig := fitU 32 (s.sReg.toNat + (directHigh s.upper.toNat s.sReg.toNat).toNat) .sig s
        exp := s.k
        phase := .digits }) ∨
    (directLow s.lower.toNat s.sReg.toNat = directHigh s.upper.toNat s.sReg.toNat ∧
      ruleDirect s = { s with phase := .tie }) := by
  by_cases h : directLow s.lower.toNat s.sReg.toNat = directHigh s.upper.toNat s.sReg.toNat
  · exact .inr ⟨h, if_neg (by simpa using h)⟩
  · exact .inl ⟨h, if_pos (by simpa using h)⟩

theorem ruleDecode_writes (s : State) : ∃ sg ef mf len ph,
    ruleDecode s = { s with sign := sg, ef := ef, mf := mf, len := len, phase := ph } := by
  obtain ⟨-, h⟩ | ⟨-, h⟩ := ruleDecode_cases s
  · exact ⟨_, _, _, _, _, h⟩
  · exact ⟨_, _, _, _, _, h⟩

theorem ruleSignw_writes (s : State) : ∃ out en off data pos ph,
    ruleSignw s = { s with out := out, wrEn := en, wrOff := off, wrData := data, pos := pos, phase := ph } := by
  obtain ⟨p, -, ⟨-, h⟩ | ⟨-, h⟩⟩ := ruleSignw_cases s
  · exact ⟨_, _, _, _, _, _, h⟩
  · exact ⟨_, _, _, _, _, _, h⟩

theorem ruleZero_writes (s : State) : ∃ txt tlen ph, ruleZero s = { s with txt := txt, tlen := tlen, phase := ph } :=
  ⟨_, _, _, rfl⟩

theorem ruleNormal_writes (s : State) : ∃ c q ph, ruleNormal s = { s with c := c, q := q, phase := ph } :=
  ⟨_, _, _, rfl⟩

theorem ruleSubnormal_writes (s : State) : ∃ c q ph, ruleSubnormal s = { s with c := c, q := q, phase := ph } :=
  ⟨_, _, _, rfl⟩

theorem ruleFastint_writes (s : State) : ∃ sig exp ph, ruleFastint s = { s with sig := sig, exp := exp, phase := ph } :=
  ⟨_, _, _, rfl⟩

theorem ruleBounds_writes (s : State) : ∃ irr cbl cb cbr ph,
    ruleBounds s = { s with irr := irr, cbl := cbl, cb := cb, cbr := cbr, phase := ph } :=
  ⟨_, _, _, _, _, rfl⟩

theorem ruleExpk_writes (s : State) : ∃ k ph, ruleExpk s = { s with k := k, phase := ph } := ⟨_, _, rfl⟩

theorem ruleShifth_writes (s : State) : ∃ h ph, ruleShifth s = { s with h := h, phase := ph } := ⟨_, _, rfl⟩

theorem ruleLut_writes (s : State) : ∃ g fault cause ph,
    ruleLut s = { s with g := g, fault := fault, cause := cause, phase := ph } := by
  obtain ⟨-, h⟩ | ⟨-, -, -, h⟩ | ⟨-, -, -, -, h⟩ := ruleLut_cases s
  · exact ⟨_, _, _, _, h⟩
  · exact ⟨_, _, _, _, h⟩
  · exact ⟨_, _, _, _, h⟩

theorem ruleMull_writes (s : State) : ∃ v ph, ruleMull s = { s with vbl := v, phase := ph } := ⟨_, _, rfl⟩

theorem ruleMulc_writes (s : State) : ∃ v ph, ruleMulc s = { s with vb := v, phase := ph } := ⟨_, _, rfl⟩

theorem ruleMulr_writes (s : State) : ∃ v ph, ruleMulr s = { s with vbr := v, phase := ph } := ⟨_, _, rfl⟩

theorem ruleInterval_writes (s : State) : ∃ lower upper sReg ph,
    ruleInterval s = { s with lower := lower, upper := upper, sReg := sReg, phase := ph } :=
  ⟨_, _, _, _, rfl⟩

theorem ruleShorter_writes (s : State) : ∃ sig exp ph, ruleShorter s = { s with sig := sig, exp := exp, phase := ph } := by
  obtain ⟨-, h⟩ | ⟨-, h⟩ := ruleShorter_cases s
  · exact ⟨_, _, _, h⟩
  · exact ⟨_, _, _, h⟩

theorem ruleDirect_writes (s : State) : ∃ sig exp ph, ruleDirect s = { s with sig := sig, exp := exp, phase := ph } := by
  obtain ⟨-, h⟩ | ⟨-, h⟩ := ruleDirect_cases s
  · exact ⟨_, _, _, h⟩
  · exact ⟨_, _, _, h⟩

theorem ruleTie_writes (s : State) : ∃ sig exp ph, ruleTie s = { s with sig := sig, exp := exp, phase := ph } :=
  ⟨_, _, _, rfl⟩

theorem ruleDigits_writes (s : State) : ∃ dig n nk ph,
    ruleDigits s = { s with dig := dig, n := n, nk := nk, phase := ph } := by
  unfold ruleDigits
  split
  · exact ⟨_, _, _, _, rfl⟩
  · exact ⟨_, _, _, _, rfl⟩

theorem ruleLayout_writes (s : State) : ∃ dpp se mode txt tlen ph,
    ruleLayout s = { s with dpp := dpp, se := se, mode := mode, txt := txt, tlen := tlen, phase := ph } :=
  ⟨_, _, _, _, _, _, rfl⟩

theorem ruleEmit_writes (s : State) : ∃ out en off data pos len ph,
    ruleEmit s = { s with out := out, wrEn := en, wrOff := off, wrData := data, pos := pos, len := len, phase := ph } := by
  obtain ⟨-, h⟩ | ⟨-, h⟩ := emitByte_cases s.bodyByte s
  · exact ⟨_, _, _, _, _, _, _, h⟩
  · exact ⟨_, _, _, _, _, _, _, h⟩

/-- Settles O54: phase by phase, a register that the phase's rule does not write is the one the step began with. -/
theorem registersChangeOnlyInTheirPhases : Obligations.RegistersChangeOnlyInTheirPhases := by
  intro p s t hp ht
  rw [blockStep_eq, hp] at ht
  obtain rfl : phaseRule (beginStep p s) = t := by simpa using ht
  unfold phaseRule
  rw [beginStep_phase]
  cases hph : s.phase with
  | idle | done =>
    simp only [ruleIdle, ruleDone, ready_iff, hph]
    obtain ⟨hs, e⟩ | ⟨-, e⟩ := handshake_cases (beginStep p s)
    · rw [beginStep_start] at hs
      simp [e, hs]
    · simp [e]
  | decode => obtain ⟨_, _, _, _, _, e⟩ := ruleDecode_writes (beginStep p s); simp [e]
  | signw => obtain ⟨_, _, _, _, _, _, e⟩ := ruleSignw_writes (beginStep p s); simp [e]
  | zero => obtain ⟨_, _, _, e⟩ := ruleZero_writes (beginStep p s); simp [e]
  | normal => obtain ⟨_, _, _, e⟩ := ruleNormal_writes (beginStep p s); simp [e]
  | subnormal => obtain ⟨_, _, _, e⟩ := ruleSubnormal_writes (beginStep p s); simp [e]
  | fastint => obtain ⟨_, _, _, e⟩ := ruleFastint_writes (beginStep p s); simp [e]
  | bounds => obtain ⟨_, _, _, _, _, e⟩ := ruleBounds_writes (beginStep p s); simp [e]
  | expk => obtain ⟨_, _, e⟩ := ruleExpk_writes (beginStep p s); simp [e]
  | shifth => obtain ⟨_, _, e⟩ := ruleShifth_writes (beginStep p s); simp [e]
  | lut => obtain ⟨_, _, _, _, e⟩ := ruleLut_writes (beginStep p s); simp [e]
  | mull => obtain ⟨_, _, e⟩ := ruleMull_writes (beginStep p s); simp [e]
  | mulc => obtain ⟨_, _, e⟩ := ruleMulc_writes (beginStep p s); simp [e]
  | mulr => obtain ⟨_, _, e⟩ := ruleMulr_writes (beginStep p s); simp [e]
  | interval => obtain ⟨_, _, _, _, e⟩ := ruleInterval_writes (beginStep p s); simp [e]
  | shorter => obtain ⟨_, _, _, e⟩ := ruleShorter_writes (beginStep p s); simp [e]
  | direct => obtain ⟨_, _, _, e⟩ := ruleDirect_writes (beginStep p s); simp [e]
  | tie => obtain ⟨_, _, _, e⟩ := ruleTie_writes (beginStep p s); simp [e]
  | digits => obtain ⟨_, _, _, _, e⟩ := ruleDigits_writes (beginStep p s); simp [e]
  | layout => obtain ⟨_, _, _, _, _, _, e⟩ := ruleLayout_writes (beginStep p s); simp [e]
  | emit => obtain ⟨_, _, _, _, _, _, _, e⟩ := ruleEmit_writes (beginStep p s); simp [e]
  | fault => simp [ruleFault]

end Sys2Proof.Machine
end

section
/-! The layout against its reference (R130 to R138): the digit loop writes the decimal digits, the text functions write
`layout`. -/

namespace Sys2Proof.Machine

open Sys2Proof.Machine.Reference

/-! The decimal digits (R130). -/

theorem decimal_eq_append {v : Nat} (h : 0 < v) : decimal v = decimal (v / 10) ++ [chr (v % 10)] := by
  unfold decimal
  rw [Nat.digits_def' (by decide) h]
  simp

theorem decimal_of_lt_ten {v : Nat} (h0 : 0 < v) (h : v < 10) : decimal v = [chr v] := by
  rw [decimal_eq_append h0, Nat.div_eq_of_lt h, Nat.mod_eq_of_lt h]
  rfl

theorem decimal_of_lt_hundred {v : Nat} (h0 : 10 ≤ v) (h : v < 100) : decimal v = [(pair v).1, (pair v).2] := by
  rw [decimal_eq_append (by omega), decimal_of_lt_ten (by omega) (by omega)]
  rfl

theorem decimal_eq_append_pair {v : Nat} (h : 100 ≤ v) :
    decimal v = decimal (v / 100) ++ [(pair (v % 100)).1, (pair (v % 100)).2] := by
  rw [decimal_eq_append (by omega), decimal_eq_append (by omega), Nat.div_div_eq_div_mul, List.append_assoc]
  simp only [pair, show v / 10 % 10 = v % 100 / 10 by omega, show v % 10 = v % 100 % 10 by omega]
  rfl

theorem lastDigits_eq {v : Nat} (ds : List Byte) (h0 : 0 < v) (h : v < 100) : lastDigits v ds = decimal v ++ ds := by
  unfold lastDigits
  split
  · rw [decimal_of_lt_hundred ‹_› h]; rfl
  · rw [decimal_of_lt_ten h0 (by omega)]; rfl

/-- R130's loop puts the digits of `v` before those it has, when `v` has at most two digits more than the loop's pairs. -/
theorem digitLoop_eq (fuel : Nat) {v : Nat} (ds : List Byte) (h0 : 0 < v) (h : v < 100 ^ (fuel + 1)) :
    digitLoop fuel v ds = decimal v ++ ds := by
  induction fuel generalizing v ds with
  | zero => exact lastDigits_eq ds h0 (by simpa using h)
  | succ fuel ih =>
    unfold digitLoop
    split
    next hv =>
      rw [ih _ (by omega) (Nat.div_lt_of_lt_mul (by rwa [← Nat.pow_succ'])), decimal_eq_append_pair hv,
        List.append_assoc]
      rfl
    next => exact lastDigits_eq ds h0 (by omega)

theorem sigDigits_eq {sig : Nat} (h0 : 1 ≤ sig) (h : sig < 10 ^ 9) : sigDigits sig = decimal sig := by
  rw [sigDigits, digitLoop_eq 4 [] h0 (by omega), List.append_nil]

theorem decimal_length_le {v k : Nat} (h : v < 10 ^ k) : (decimal v).length ≤ k := by
  simpa [decimal] using (Nat.digits_length_le_iff (by decide) v).mpr h

theorem decimal_length_pos {v : Nat} (h : 0 < v) : 1 ≤ (decimal v).length := by
  rw [decimal_eq_append h]
  simp

/-! The digits without the trailing zeros (R130, R131). -/

theorem trimZeros_isPrefix (ds : List Byte) : trimZeros ds <+: ds := by
  refine ⟨(ds.reverse.takeWhile (· == 0x30)).reverse, ?_⟩
  rw [trimZeros, ← List.reverse_append, List.takeWhile_append_dropWhile, List.reverse_reverse]

theorem trimZeros_length_le (ds : List Byte) : (trimZeros ds).length ≤ ds.length := (trimZeros_isPrefix ds).length_le

theorem trimZeros_eq_take (ds : List Byte) : trimZeros ds = ds.take (trimZeros ds).length := by
  obtain ⟨zeros, h⟩ := trimZeros_isPrefix ds
  calc trimZeros ds = (trimZeros ds ++ zeros).take (trimZeros ds).length := List.take_left.symm
    _ = ds.take (trimZeros ds).length := by rw [h]

theorem length_sub_trailingZeros (ds : List Byte) : ds.length - trailingZeros ds = (trimZeros ds).length := by
  have h := congrArg List.length (List.takeWhile_append_dropWhile (p := (· == (0x30 : Byte))) (l := ds.reverse))
  rw [List.length_append, List.length_reverse] at h
  rw [trimZeros, List.length_reverse, trailingZeros, ← h]
  exact Nat.add_sub_cancel_left _ _

/-- The character of a digit is "0" for the digit 0 only. -/
theorem chr_ne_zero {d : Nat} (h0 : d ≠ 0) (h : d < 10) : chr d ≠ 0x30 := by
  intro e
  have hn : (0x30 + d) % 2 ^ 8 = 0x30 := congrArg BitVec.toNat e
  omega

/-- The first digit of a positive number is not "0", so a significant digit remains. -/
theorem trimZeros_decimal_length_pos {v : Nat} (h : 0 < v) : 1 ≤ (trimZeros (decimal v)).length := by
  have hne : v ≠ 0 := by omega
  have hnil := Nat.digits_ne_nil_iff_ne_zero (b := 10).mpr hne
  have hmem := List.getLast_mem hnil
  have hchr := chr_ne_zero (Nat.getLast_digit_ne_zero 10 hne) (Nat.digits_lt_base (by decide) hmem)
  rw [Nat.one_le_iff_ne_zero, Ne, List.length_eq_zero_iff, trimZeros, List.reverse_eq_nil_iff,
    List.dropWhile_eq_nil_iff]
  intro hall
  have hin : chr ((Nat.digits 10 v).getLast hnil) ∈ (decimal v).reverse := by
    rw [decimal, List.map_reverse, List.reverse_reverse]
    exact List.mem_map_of_mem hmem
  exact hchr (by simpa using hall _ hin)

/-! The text (R131 to R138). -/

/-- `d` reads the characters of `ds`. -/
def Reads (d : Nat → Byte) (ds : List Byte) : Prop := ∀ j, j < ds.length → some (d j) = ds[j]?

/-- A run of digits is that part of the digit string. -/
theorem digitRun_eq {d : Nat → Byte} {ds : List Byte} (hd : Reads d ds) (a : Nat) {b : Nat} (hb : b ≤ ds.length) :
    digitRun d a b = (ds.take b).drop a := by
  refine List.ext_getElem (by simp [digitRun_length]; omega) fun j h1 h2 => ?_
  rw [digitRun_length] at h1
  rw [digitRun_getElem, List.getElem_drop, List.getElem_take, ← Option.some_inj, hd _ (by omega),
    List.getElem?_eq_getElem]

theorem digitRun_zero_eq {d : Nat → Byte} {ds : List Byte} (hd : Reads d ds) {b : Nat} (hb : b ≤ ds.length) :
    digitRun d 0 b = ds.take b := by
  rw [digitRun_eq hd 0 hb, List.drop_zero]

theorem expDigits_eq {a : Nat} (h0 : 0 < a) (h : a < 100) : expDigits a = decimal a := by
  unfold expDigits
  split
  · exact (decimal_of_lt_hundred ‹_› h).symm
  · exact (decimal_of_lt_ten h0 (by omega)).symm

/-- R131's decision with the thresholds of R6. -/
theorem isSci_encoder (se : Int) : isSci Config.encoder se = true ↔ se < -6 ∨ 20 < se := by
  change (decide (se < -6) || decide (20 < se)) = true ↔ _
  simp

/-- The four texts of LAYOUT are the four of `layout`, where the exponent of a scientific text has one or two digits. -/
theorem layoutText_eq {d : Nat → Byte} {sig : Nat} {exp : Int} (hd : Reads d (decimal sig)) (h0 : 1 ≤ sig)
    (hse : ((decimal sig).length + exp - 1).natAbs < 100) :
    (layoutText Config.encoder d (decimal sig).length (trimZeros (decimal sig)).length
      ((decimal sig).length + exp)).2 = layout sig exp := by
  have hk := trimZeros_decimal_length_pos h0
  have hkn := trimZeros_length_le (decimal sig)
  have htake : digitRun d 0 (trimZeros (decimal sig)).length = trimZeros (decimal sig) := by
    rw [digitRun_zero_eq hd hkn, ← trimZeros_eq_take]
  have hdrop : ∀ a, digitRun d a (trimZeros (decimal sig)).length = (trimZeros (decimal sig)).drop a := fun a => by
    rw [digitRun_eq hd a hkn, ← trimZeros_eq_take]
  unfold layoutText layout
  simp only [isSci_encoder]
  split
  next hs =>
    have hhead : [d 0] = (trimZeros (decimal sig)).take 1 := by
      rw [trimZeros_eq_take, List.take_take, Nat.min_eq_left hk, ← digitRun_zero_eq hd (by omega)]
      rfl
    simp only [sciText, hdrop, expDigits_eq (show 0 < ((decimal sig).length + exp - 1).natAbs by omega) hse, ← hhead]
    rfl
  next =>
    split
    next => simp only [intText, digitRun_zero_eq hd le_rfl, List.take_length]
    next =>
      split
      next => simp only [fracText, digitRun_zero_eq hd (show ((decimal sig).length + exp).toNat ≤ _ by omega), hdrop]
      next => simp only [smallText, htake]

/-- The text of a Decimal Result has 1 to 21 characters (R146). -/
theorem layout_length {sig : Nat} {exp : Int} (h0 : 1 ≤ sig) (h1 : sig < 10 ^ 9) (h2 : -45 ≤ exp) (h3 : exp ≤ 32) :
    1 ≤ (layout sig exp).length ∧ (layout sig exp).length ≤ 21 := by
  have hn0 := decimal_length_pos h0
  have hn := decimal_length_le h1
  have hk := trimZeros_decimal_length_pos h0
  have hkn := trimZeros_length_le (decimal sig)
  unfold layout
  dsimp only
  split
  next =>
    have he : (decimal ((decimal sig).length + exp - 1).natAbs).length ≤ 2 := decimal_length_le (by omega)
    split <;> simp <;> omega
  next =>
    split
    next => simp; omega
    next =>
      split
      next => split <;> simp <;> omega
      next => simp; omega

end Sys2Proof.Machine
end

section
/-! The operands of the engine and the ranges of its intermediates (R61, R62, R104, R105, R115, R120). -/

namespace Sys2Proof.Machine

open Sys2Proof.Machine.Reference

/-! The classes by their fields (R62). -/

theorem classOf_eq_infnan_iff (w : Word) : classOf w = .infnan ↔ expField w = 255 := by
  rw [← BitVec.toNat_inj, classOf]
  split_ifs <;> simp_all

theorem classOf_eq_zero_iff (w : Word) : classOf w = .zero ↔ expField w = 0 ∧ mantField w = 0 := by
  rw [← BitVec.toNat_inj, ← BitVec.toNat_inj, classOf]
  split_ifs <;> simp_all

theorem normalQ_eq (ef : BitVec 8) : normalQ ef = (ef.toNat : Int) - 150 := by
  unfold normalQ bias mantBits
  omega

/-- `fast` as NORMAL tests it on the assembled values is `fast` of the operand (R62, R84). -/
theorem isFast_normal {w : Word} (h : (expField w).toNat ≠ 0) :
    isFast (normalC (mantField w)) (normalQ (expField w)) = operandFast w := by
  have hshift : (-normalQ (expField w)).toNat = 150 - (expField w).toNat := by rw [normalQ_eq]; omega
  have hle : normalQ (expField w) ≤ 0 ↔ (expField w).toNat ≤ 150 := by rw [normalQ_eq]; omega
  have hge : -(mantBits : Int) ≤ normalQ (expField w) ↔ 127 ≤ (expField w).toNat := by
    rw [normalQ_eq, mantBits]; omega
  simp only [isFast, operandFast, operandC, if_neg h, hshift, hle, hge, normalC, mantBits]
  rw [Bool.and_comm (decide ((expField w).toNat ≤ 150))]

theorem operandFast_of_subnormal {w : Word} (h : (expField w).toNat = 0) : operandFast w = false := by
  simp [operandFast, h]

/-- The significands, exponents and irregular flags that the engine is given (R16, R90). -/
structure EngineOperand (c : Nat) (q : Int) (irr : Bool) : Prop where
  c_pos : 1 ≤ c
  c_lt : c < 2 ^ 24
  q_ge : -149 ≤ q
  q_le : q ≤ 104
  q_ge_of_irr : irr = true → -148 ≤ q

/-- Every operand but a zero, an infinity and a NaN has such values. -/
theorem engineOperand_of_classOf {w : Word} (hz : classOf w ≠ .zero) (hi : classOf w ≠ .infnan) :
    EngineOperand (operandC w) (operandQ w) (operandIrr w) := by
  rw [Ne, classOf_eq_zero_iff, ← BitVec.toNat_inj, ← BitVec.toNat_inj] at hz
  rw [Ne, classOf_eq_infnan_iff, ← BitVec.toNat_inj] at hi
  have hef := (expField w).isLt
  have hmf := (mantField w).isLt
  change ¬ ((expField w).toNat = 0 ∧ (mantField w).toNat = 0) at hz
  change (expField w).toNat ≠ 255 at hi
  constructor
  · unfold operandC; split <;> omega
  · unfold operandC; split <;> omega
  · unfold operandQ; split <;> omega
  · unfold operandQ; split <;> omega
  · intro h
    simp only [operandIrr, Bool.and_eq_true, decide_eq_true_eq] at h
    unfold operandQ; split <;> omega

/-! `rop` against its second factor (R107). -/

theorem rop_le {g : Nat} (cp : Nat) (hg : g < 2 ^ 64) : rop g cp ≤ cp := by
  rcases Nat.eq_zero_or_pos cp with rfl | hcp
  · simp [rop]
  · have hlt : g * cp / 2 ^ 64 < cp := Nat.div_lt_of_lt_mul (Nat.mul_lt_mul_of_pos_right hg hcp)
    rw [rop_cases]
    split <;> omega

theorem half_le_rop {g : Nat} (cp : Nat) (hg : 2 ^ 63 ≤ g) : cp / 2 ≤ rop g cp := by
  have hmul : 2 ^ 63 * cp ≤ g * cp := Nat.mul_le_mul_right cp hg
  rw [rop_cases]
  split <;> omega

theorem pow10Table_normalised : pow10Table.all (fun g => 2 ^ 63 ≤ g.toNat) = true := by decide

/-- Every entry of the table has its top bit set (R41). -/
theorem pow10_ge {e : Int} (h0 : -31 ≤ e) (h1 : e ≤ 45) : 2 ^ 63 ≤ (pow10 e).toNat := by
  have hi : (e - pow10MinE).toNat < pow10Table.length := by
    rw [show pow10Table.length = 77 from by decide]
    simp only [pow10MinE]
    omega
  rw [pow10, List.getD_eq_getElem _ _ hi]
  exact of_decide_eq_true (List.all_eq_true.mp pow10Table_normalised _ (List.getElem_mem hi))

/-! The ranges of the intermediates (R104, R105, R120). -/

/-- EXPK's K is the engine's k. -/
theorem trace_k (c : Nat) (q : Int) (irr : Bool) : (trace c q irr).k = decimalExp q irr.toNat := by
  cases irr <;> rfl

/-- SHIFTH's H is the engine's h. -/
theorem trace_h (c : Nat) (q : Int) (irr : Bool) : (trace c q irr).h = alignShift q (trace c q irr).k := rfl

/-- R105's H for each of the 254 exponents Q, regular and irregular: the two roundings do not follow from their bounds as
rational numbers. -/
theorem alignShift_decimalExp_range : ∀ i < 254, ∀ irr < 2, (irr = 1 → 1 ≤ i) →
    1 ≤ alignShift ((i : Nat) - 149) (decimalExp ((i : Nat) - 149) irr) ∧
      alignShift ((i : Nat) - 149) (decimalExp ((i : Nat) - 149) irr) ≤ 4 := by
  decide +kernel

namespace EngineOperand

variable {c : Nat} {q : Int} {irr : Bool}

/-- R104: K is in -45..31. -/
theorem k_range (ho : EngineOperand c q irr) : -45 ≤ (trace c q irr).k ∧ (trace c q irr).k ≤ 31 := by
  obtain ⟨-, -, hq0, hq1, hirr⟩ := ho
  simp only [trace, asr]
  cases irr
  · simp only [Bool.false_eq_true, if_false]; omega
  · have := hirr rfl
    simp only [if_true]; omega

/-- R105: H is in 1..4. -/
theorem h_range (ho : EngineOperand c q irr) : 1 ≤ (trace c q irr).h ∧ (trace c q irr).h ≤ 4 := by
  obtain ⟨-, -, hq0, hq1, hirr⟩ := ho
  obtain ⟨i, rfl⟩ : ∃ i : Nat, q = i - 149 := ⟨(q + 149).toNat, by omega⟩
  rw [trace_h, trace_k]
  refine alignShift_decimalExp_range i (by omega) irr.toNat (Bool.toNat_lt irr) fun h => ?_
  have := hirr (by simpa using h)
  omega

/-- A scaled boundary is at least the boundary, and at most 16 times it. -/
theorem scaled_range (ho : EngineOperand c q irr) (cx : Nat) :
    cx ≤ rop (trace c q irr).g (cx * 2 ^ (trace c q irr).h.toNat) ∧
      rop (trace c q irr).g (cx * 2 ^ (trace c q irr).h.toNat) ≤ 16 * cx := by
  obtain ⟨hk0, hk1⟩ := ho.k_range
  obtain ⟨hh0, hh1⟩ := ho.h_range
  have h2 : 2 ^ 1 ≤ 2 ^ (trace c q irr).h.toNat := Nat.pow_le_pow_right (by decide) (by omega)
  have h16 : 2 ^ (trace c q irr).h.toNat ≤ 2 ^ 4 := Nat.pow_le_pow_right (by decide) (by omega)
  have hlo := half_le_rop (cx * 2 ^ (trace c q irr).h.toNat) (pow10_ge (e := -(trace c q irr).k) (by omega) (by omega))
  have hhi := rop_le (cx * 2 ^ (trace c q irr).h.toNat) (pow10 (-(trace c q irr).k)).isLt
  have hmul2 := Nat.mul_le_mul_left cx h2
  have hmul16 := Nat.mul_le_mul_left cx h16
  change _ ≤ rop (pow10 (-(trace c q irr).k)).toNat _ ∧ rop (pow10 (-(trace c q irr).k)).toNat _ ≤ _
  omega

theorem vbl_range (ho : EngineOperand c q irr) : 1 ≤ (trace c q irr).vbl ∧ (trace c q irr).vbl < 2 ^ 30 := by
  have h : _ ≤ (trace c q irr).vbl ∧ _ := ho.scaled_range (4 * c - 2 + irr.toNat)
  have hirr := Bool.toNat_le irr
  have hc0 := ho.c_pos
  have hc1 := ho.c_lt
  change _ ∧ (trace c q irr).vbl ≤ _ at h
  omega

theorem vb_range (ho : EngineOperand c q irr) : 4 ≤ (trace c q irr).vb ∧ (trace c q irr).vb < 2 ^ 30 := by
  have h : _ ≤ (trace c q irr).vb ∧ (trace c q irr).vb ≤ _ := ho.scaled_range (4 * c)
  have hc0 := ho.c_pos
  have hc1 := ho.c_lt
  omega

theorem vbr_range (ho : EngineOperand c q irr) : 1 ≤ (trace c q irr).vbr ∧ (trace c q irr).vbr < 2 ^ 30 := by
  have h : _ ≤ (trace c q irr).vbr ∧ (trace c q irr).vbr ≤ _ := ho.scaled_range (4 * c + 2)
  have hc1 := ho.c_lt
  omega

theorem s_range (ho : EngineOperand c q irr) : 1 ≤ (trace c q irr).s ∧ (trace c q irr).s < 2 ^ 28 := by
  have h := ho.vb_range
  change 1 ≤ (trace c q irr).vb / 4 ∧ (trace c q irr).vb / 4 < 2 ^ 28
  omega

theorem lower_pos (ho : EngineOperand c q irr) : 1 ≤ (trace c q irr).lower :=
  Nat.le_add_right_of_le ho.vbl_range.1

/-- The Decimal Result of the engine is a positive number below 10^9 with R19's exponent. -/
theorem engine_range (ho : EngineOperand c q irr) :
    1 ≤ (engine c q irr).1 ∧ (engine c q irr).1 < 10 ^ 9 ∧ -45 ≤ (engine c q irr).2 ∧ (engine c q irr).2 ≤ 32 := by
  have hs := ho.s_range
  have hk := ho.k_range
  have hl := ho.lower_pos
  unfold engine decide3
  dsimp only
  split_ifs with hsp hdir
  · by_cases hw : 40 * ((trace c q irr).s / 10) + 40 ≤ (trace c q irr).upper
    · simp only [hw, decide_true, Bool.toNat_true]; omega
    · simp only [hw, decide_false, Bool.toNat_false, ne_eq, Bool.not_eq_false, decide_eq_true_eq] at hsp ⊢; omega
  · have := Bool.toNat_le (decide (4 * (trace c q irr).s + 4 ≤ (trace c q irr).upper))
    omega
  · have := Bool.toNat_le (decide (4 * (trace c q irr).s + 2 < (trace c q irr).vb ∨
      (trace c q irr).vb = 4 * (trace c q irr).s + 2 ∧ (trace c q irr).s % 2 = 1))
    omega

end EngineOperand

/-- The Decimal Result of every operand that has one is a positive number below 10^9 with R19's exponent. -/
theorem decimalResult_range {w : Word} (hz : classOf w ≠ .zero) (hi : classOf w ≠ .infnan) :
    1 ≤ (decimalResult w).1 ∧ (decimalResult w).1 < 10 ^ 9 ∧ -45 ≤ (decimalResult w).2 ∧ (decimalResult w).2 ≤ 32 := by
  have ho := engineOperand_of_classOf hz hi
  unfold decimalResult
  split
  next hf =>
    simp only [operandFast, Bool.and_eq_true, decide_eq_true_eq] at hf
    obtain ⟨⟨hf0, hf1⟩, -⟩ := hf
    have hpow : 2 ^ (150 - (expField w).toNat) ≤ 2 ^ 23 := Nat.pow_le_pow_right (by decide) (by omega)
    have hc : 2 ^ 23 ≤ operandC w := by unfold operandC; split <;> omega
    have hpos := Nat.div_pos (hpow.trans hc) (by positivity)
    have hle := Nat.div_le_self (operandC w) (2 ^ (150 - (expField w).toNat))
    have hlt := ho.c_lt
    dsimp only
    omega
  next => exact ho.engine_range

/-! The text (R90, R146). -/

theorem signText_length (w : Word) : (signText w).length = (signField w).toNat := by
  unfold signText
  rcases BitVec.eq_zero_or_eq_one (signField w) with h | h <;> rw [h] <;> rfl

end Sys2Proof.Machine
end

section
/-! The invariant of a run, rule by rule: what each phase leaves is what the next phase reads (R36, R90). -/

namespace Sys2Proof.Safety

open Sys2Proof.Machine
open Sys2Proof.Machine.Reference (classOf operandC operandQ operandIrr operandFast signText convert decimalResult)

variable {s : State}

/-! The operand of a state in the engine. -/

theorem Assembled.engineOperand (h : Assembled s) :
    EngineOperand (operandC s.raw) (operandQ s.raw) (operandIrr s.raw) := by
  obtain ⟨⟨⟨-, -, -, hi, -⟩, -⟩, hz, -⟩ := h
  exact engineOperand_of_classOf hz hi

/-! The driver. -/

/-- A handshake begins a conversion with LEN = POS = 0 or leaves the state. -/
theorem phaseInv_handshake (h : PhaseInv s) : PhaseInv (handshake s) := by
  obtain ⟨-, e⟩ | ⟨-, e⟩ := handshake_cases s
  · rw [e]; exact ⟨rfl, rfl⟩
  · rwa [e]

theorem phaseInv_ruleDecode (hl : s.len = 0) (hp : s.pos = 0) : PhaseInv (ruleDecode s) := by
  obtain ⟨h, e⟩ | ⟨h, e⟩ := ruleDecode_cases s <;> rw [e]
  · have hc : convert s.raw = [] := if_pos ((classOf_eq_infnan_iff s.raw).mpr h)
    exact ⟨(congrArg List.length hc).symm, hp⟩
  · exact ⟨⟨rfl, rfl, rfl, (classOf_eq_infnan_iff s.raw).not.mpr h, hl⟩, hp⟩

theorem ruleSignw_phase (s : State) :
    (ruleSignw s).phase = if isZero s.ef s.mf then .zero else if isNormal s.ef then .normal else .subnormal := rfl

theorem ruleSignw_raw (s : State) : (ruleSignw s).raw = s.raw := by
  obtain ⟨_, _, _, _, _, _, e⟩ := ruleSignw_writes s
  rw [e]

/-- R82: "-" stands at offset 0 exactly when the sign is set. -/
theorem signed_ruleSignw (h : Decomposed s) (hp : s.pos = 0) : Signed (ruleSignw s) := by
  have hs : s.sign = signField s.raw := h.1
  obtain ⟨p, -, ⟨h1, e⟩ | ⟨h1, e⟩⟩ := ruleSignw_cases s <;> rw [e]
  · have ht : signText s.raw = [0x2D] := if_pos (hs ▸ h1)
    refine ⟨h, ?_, fun i hi => ?_⟩
    · change (fitU 5 (s.pos.toNat + 1) .pos s).toNat = (signText s.raw).length
      rw [ht, hp]
      rfl
    · change i < (signText s.raw).length at hi
      obtain rfl : i = 0 := by simpa [ht] using hi
      change (s.out.write s.pos.toNat 0x2D).read? 0 = some (signText s.raw)[0]
      simp only [ht, hp]
      exact read?_write_same _ _ _
  · have ht : signText s.raw = [] := if_neg (hs ▸ h1)
    refine ⟨h, ?_, fun i hi => ?_⟩
    · change s.pos.toNat = (signText s.raw).length
      rw [ht, hp]
      rfl
    · change i < (signText s.raw).length at hi
      simp [ht] at hi

theorem phaseInv_ruleSignw (h : Decomposed s) (hp : s.pos = 0) : PhaseInv (ruleSignw s) := by
  have hsg := signed_ruleSignw h hp
  obtain ⟨-, hef, hmf, -⟩ := h
  have hzero := classOf_eq_zero_iff s.raw
  rw [← hef, ← hmf] at hzero
  unfold PhaseInv
  rw [ruleSignw_phase, ruleSignw_raw, ← hef]
  by_cases hz : isZero s.ef s.mf = true
  · rw [if_pos hz]
    exact ⟨hsg, hzero.mpr (by simpa [isZero] using hz)⟩
  · have hnz : classOf s.raw ≠ .zero := hzero.not.mpr (by simpa [isZero] using hz)
    rw [if_neg hz]
    by_cases hn : isNormal s.ef = true
    · rw [if_pos hn]
      exact ⟨hsg, hnz, by simpa [isNormal, ← BitVec.toNat_inj] using hn⟩
    · rw [if_neg hn]
      exact ⟨hsg, hnz, by simpa [isNormal, ← BitVec.toNat_inj] using hn⟩

/-! The assembly of C and Q, and the fast path. -/

/-- R84: C and Q of a normal operand. -/
theorem assembled_ruleNormal (h : Signed s) (hz : classOf s.raw ≠ .zero) (he : (expField s.raw).toNat ≠ 0) :
    Assembled (ruleNormal s) := by
  obtain ⟨-, hef, hmf, -⟩ := h.1
  have hm := (mantField s.raw).isLt
  have hx := (expField s.raw).isLt
  refine ⟨h, hz, ?_, ?_⟩
  · change (BitVec.ofNat 24 (normalC s.mf)).toNat = operandC s.raw
    rw [hmf, BitVec.toNat_ofNat, operandC, if_neg he, normalC, mantBits]
    omega
  · change (BitVec.ofInt 9 (normalQ s.ef)).toInt = operandQ s.raw
    rw [hef, normalQ_eq, operandQ, if_neg he, BitVec.toInt_ofInt]
    exact Int.bmod_eq_of_le (by omega) (by omega)

theorem phaseInv_ruleNormal (h : Signed s) (hz : classOf s.raw ≠ .zero) (he : (expField s.raw).toNat ≠ 0) :
    PhaseInv (ruleNormal s) := by
  have ha := assembled_ruleNormal h hz he
  obtain ⟨-, hef, hmf, -⟩ := h.1
  have hph : (ruleNormal s).phase = if operandFast s.raw then .fastint else .bounds := by
    rw [← isFast_normal he, ← hef, ← hmf]
    rfl
  unfold PhaseInv
  rw [hph]
  cases hf : operandFast s.raw
  · exact ⟨ha, hf⟩
  · exact ⟨ha, hf⟩

/-- R85: C and Q of a subnormal operand, which goes through the engine. -/
theorem inEngine_ruleSubnormal (h : Signed s) (hz : classOf s.raw ≠ .zero) (he : (expField s.raw).toNat = 0) :
    InEngine (ruleSubnormal s) := by
  obtain ⟨-, -, hmf, -⟩ := h.1
  refine ⟨⟨h, hz, ?_, ?_⟩, operandFast_of_subnormal he⟩
  · change (s.mf.zeroExtend 24).toNat = operandC s.raw
    rw [hmf, operandC, if_pos he]
    exact BitVec.toNat_setWidth_of_le (by decide)
  · change (BitVec.ofInt 9 subnormalQ).toInt = operandQ s.raw
    rw [operandQ, if_pos he]
    rfl

/-- R86: the integer of the fast path. -/
theorem decided_ruleFastint (h : Assembled s) (hf : operandFast s.raw = true) : Decided (ruleFastint s) := by
  have hc := h.engineOperand.c_lt
  obtain ⟨hsg, hz, hC, hQ⟩ := h
  have hres : decimalResult s.raw = (operandC s.raw / 2 ^ (150 - (expField s.raw).toNat), 0) := if_pos hf
  simp only [operandFast, Bool.and_eq_true, decide_eq_true_eq] at hf
  obtain ⟨⟨h0, h1⟩, -⟩ := hf
  have hq : operandQ s.raw = (expField s.raw).toNat - 150 := if_neg (by omega)
  have hdiv := Nat.div_le_self (operandC s.raw) (2 ^ (150 - (expField s.raw).toNat))
  refine ⟨hsg, hz, ?_, ?_⟩
  · change (if s.q.toInt ≤ 0 then BitVec.ofNat 32 (s.c.toNat / 2 ^ (-s.q.toInt).toNat) else s.free 32 .sig).toNat =
      (decimalResult s.raw).1
    rw [hres, if_pos (by omega), hC, hQ, hq, BitVec.toNat_ofNat,
      show (-((expField s.raw).toNat - 150 : Int)).toNat = 150 - (expField s.raw).toNat by omega]
    exact Nat.mod_eq_of_lt (by omega)
  · change _ = (decimalResult s.raw).2
    rw [hres]
    rfl

end Sys2Proof.Safety
end

section
/-! The invariant of a run in the engine: the register an engine phase writes is the one `trace` names (R101 to R115). -/

namespace Sys2Proof.Safety

open Sys2Proof.Machine
open Sys2Proof.Machine.Reference (classOf operandC operandQ operandIrr operandFast decimalResult trace decide3 Trace)

variable {s : State}

/-! What a later stage of the engine keeps of the earlier ones. -/

theorem InEngine.assembled (h : InEngine s) : Assembled s := h.1

theorem Bounded.inEngine (h : Bounded s) : InEngine s := h.1

theorem Exponented.bounded (h : Exponented s) : Bounded s := h.1

theorem Aligned.bounded (h : Aligned s) : Bounded s := h.1.bounded

theorem LookedUp.bounded (h : LookedUp s) : Bounded s := h.1.bounded

theorem Bounded.assembled (h : Bounded s) : Assembled s := h.inEngine.assembled

theorem InEngine.engineOperand (h : InEngine s) :
    EngineOperand (operandC s.raw) (operandQ s.raw) (operandIrr s.raw) := h.assembled.engineOperand

theorem Bounded.engineOperand (h : Bounded s) :
    EngineOperand (operandC s.raw) (operandQ s.raw) (operandIrr s.raw) := h.assembled.engineOperand

theorem LookedUp.engineOperand (h : LookedUp s) :
    EngineOperand (operandC s.raw) (operandQ s.raw) (operandIrr s.raw) := h.bounded.engineOperand

theorem Aligned.k_eq (h : Aligned s) : s.k.toInt = (traceOf s).k := by
  obtain ⟨⟨-, hk⟩, -⟩ := h
  exact hk

theorem LookedUp.k_eq (h : LookedUp s) : s.k.toInt = (traceOf s).k := by
  obtain ⟨ha, -⟩ := h
  exact ha.k_eq

theorem isIrregular_eq (w : Word) : isIrregular (expField w) (mantField w) = operandIrr w := by
  rw [isIrregular, operandIrr]
  congr 1
  exact Bool.eq_iff_iff.mpr (by simp [← BitVec.toNat_inj])

theorem ruleBounds_cbl (s : State) :
    (ruleBounds s).cbl = fitU 26 (4 * s.c.toNat - 2 + (if isIrregular s.ef s.mf then 1 else 0 : Nat)) .cbl s := by
  simp only [ruleBounds]

theorem ruleBounds_cb (s : State) : (ruleBounds s).cb = fitU 26 (4 * s.c.toNat) .cb s := by simp only [ruleBounds]

theorem ruleBounds_cbr (s : State) : (ruleBounds s).cbr = fitU 26 (4 * s.c.toNat + 2) .cbr s := by
  simp only [ruleBounds]

/-- R101. -/
theorem bounded_ruleBounds (h : InEngine s) : Bounded (ruleBounds s) := by
  have ho := h.engineOperand
  obtain ⟨⟨⟨-, hef, hmf, -⟩, -⟩, -, hC, -⟩ := h.assembled
  have hc0 := ho.c_pos
  have hc1 := ho.c_lt
  have hirr := Bool.toNat_le (operandIrr s.raw)
  have hflag : (if isIrregular s.ef s.mf then 1 else 0) = (operandIrr s.raw).toNat := by
    rw [hef, hmf, isIrregular_eq]
    cases operandIrr s.raw <;> rfl
  refine ⟨h, ?_, ?_, ?_, ?_⟩
  · change BitVec.ofNat 1 (if isIrregular s.ef s.mf then 1 else 0) = BitVec.ofBool (operandIrr s.raw)
    rw [hflag]
    cases operandIrr s.raw <;> rfl
  · have hfit := fitU_toNat (w := 26) (v := 4 * s.c.toNat - 2 + (if isIrregular s.ef s.mf then 1 else 0 : Nat))
      (x := .cbl) (s := s) (by omega) (by omega)
    change (ruleBounds s).cbl.toNat = 4 * operandC s.raw - 2 + (operandIrr s.raw).toNat
    rw [← ruleBounds_cbl] at hfit
    omega
  · have hfit := fitU_toNat (w := 26) (v := 4 * s.c.toNat) (x := .cb) (s := s) (by omega) (by omega)
    change (ruleBounds s).cb.toNat = 4 * operandC s.raw
    rw [← ruleBounds_cb] at hfit
    omega
  · have hfit := fitU_toNat (w := 26) (v := 4 * s.c.toNat + 2) (x := .cbr) (s := s) (by omega) (by omega)
    change (ruleBounds s).cbr.toNat = 4 * operandC s.raw + 2
    rw [← ruleBounds_cbr] at hfit
    omega

/-- R102. -/
theorem exponented_ruleExpk (h : Bounded s) : Exponented (ruleExpk s) := by
  have hk := h.engineOperand.k_range
  refine ⟨h, ?_⟩
  obtain ⟨⟨⟨-, -, -, hQ⟩, -⟩, hirr, -⟩ := h
  change (fitS 6 (decimalExp s.q.toInt s.irr.toNat) .k s).toInt = (traceOf s).k
  rw [hQ, hirr, BitVec.toNat_ofBool, traceOf, ← trace_k (operandC s.raw)]
  exact fitS_toInt (by omega) (by omega)

/-- R105. -/
theorem aligned_ruleShifth (h : Exponented s) : Aligned (ruleShifth s) := by
  have hh := h.bounded.engineOperand.h_range
  refine ⟨h, ?_⟩
  obtain ⟨⟨⟨⟨-, -, -, hQ⟩, -⟩, -⟩, hK⟩ := h
  change ((fitU 3 (alignShift s.q.toInt s.k.toInt) .h s).toNat : Int) = (traceOf s).h
  rw [hQ, hK, traceOf, ← trace_h]
  exact fitU_toNat (by omega) (by omega)

/-- R106, R121: both tests of LUT hold, so the entry is read. -/
theorem ruleLut_of_aligned (h : Aligned s) : ruleLut s = { s with g := pow10 (-s.k.toInt), phase := .mull } := by
  have hk := h.bounded.engineOperand.k_range
  have hh := h.bounded.engineOperand.h_range
  obtain ⟨⟨-, hK⟩, hH⟩ := h
  rw [traceOf] at hK hH
  obtain ⟨hbad, -⟩ | ⟨-, -, hbad, -⟩ | ⟨-, -, -, -, e⟩ := ruleLut_cases s
  · omega
  · omega
  · exact e

theorem lookedUp_ruleLut (h : Aligned s) : LookedUp (ruleLut s) := by
  rw [ruleLut_of_aligned h]
  refine ⟨h, ?_⟩
  change (pow10 (-s.k.toInt)).toNat = (pow10 (-(traceOf s).k)).toNat
  rw [h.k_eq]

/-- R107 to R110: a multiplier's register takes the boundary scaled by the engine's g and h. -/
theorem fitU_scaled (h : LookedUp s) {cx : BitVec 26} (x : OpenValue) (hcx : cx.toNat ≤ 4 * operandC s.raw + 2) :
    (fitU 32 (scaled s cx) x s).toNat = rop (traceOf s).g (cx.toNat * 2 ^ (traceOf s).h.toNat) := by
  have hr := h.engineOperand.scaled_range cx.toNat
  have hc := h.engineOperand.c_lt
  obtain ⟨⟨-, hH⟩, hG⟩ := h
  have hsc : scaled s cx = rop (traceOf s).g (cx.toNat * 2 ^ (traceOf s).h.toNat) := by
    rw [scaled, hG, ← hH, Int.toNat_natCast]
  rw [← Int.natCast_inj, hsc]
  exact fitU_toNat (by omega) (by rw [traceOf]; omega)

theorem ruleMull_vbl (s : State) : (ruleMull s).vbl = fitU 32 (scaled s s.cbl) .vbl s := by simp only [ruleMull]

theorem ruleMulc_vb (s : State) : (ruleMulc s).vb = fitU 32 (scaled s s.cb) .vb s := by simp only [ruleMulc]

theorem ruleMulr_vbr (s : State) : (ruleMulr s).vbr = fitU 32 (scaled s s.cbr) .vbr s := by simp only [ruleMulr]

theorem mull_writes_vbl (h : LookedUp s) : (ruleMull s).vbl.toNat = (traceOf s).vbl := by
  obtain ⟨-, -, hcbl, -⟩ := h.bounded
  have hv : (traceOf s).cbl = 4 * operandC s.raw - 2 + (operandIrr s.raw).toNat := rfl
  have hirr := Bool.toNat_le (operandIrr s.raw)
  have hc := h.engineOperand.c_pos
  rw [ruleMull_vbl, fitU_scaled h .vbl (by omega), hcbl]
  rfl

theorem mulc_writes_vb (h : LookedUp s) : (ruleMulc s).vb.toNat = (traceOf s).vb := by
  obtain ⟨-, -, -, hcb, -⟩ := h.bounded
  have hv : (traceOf s).cb = 4 * operandC s.raw := rfl
  rw [ruleMulc_vb, fitU_scaled h .vb (by omega), hcb]
  rfl

theorem mulr_writes_vbr (h : LookedUp s) : (ruleMulr s).vbr.toNat = (traceOf s).vbr := by
  obtain ⟨-, -, -, -, hcbr⟩ := h.bounded
  have hv : (traceOf s).cbr = 4 * operandC s.raw + 2 := rfl
  rw [ruleMulr_vbr, fitU_scaled h .vbr (by omega), hcbr]
  rfl

theorem ruleInterval_lower (s : State) :
    (ruleInterval s).lower = fitU 32 (s.vbl.toNat + (s.c.toNat % 2 : Int)) .lower s := by simp only [ruleInterval]

theorem ruleInterval_upper (s : State) :
    (ruleInterval s).upper = fitU 32 (s.vbr.toNat - (s.c.toNat % 2 : Int)) .upper s := by simp only [ruleInterval]

theorem ruleInterval_sReg (s : State) : (ruleInterval s).sReg = fitU 28 (s.vb.toNat / 4 : Nat) .sReg s := by
  simp only [ruleInterval]

/-- R111. -/
theorem intervalled_ruleInterval (h : LookedUp s) (hl : s.vbl.toNat = (traceOf s).vbl)
    (hv : s.vb.toNat = (traceOf s).vb) (hr : s.vbr.toNat = (traceOf s).vbr) : Intervalled (ruleInterval s) := by
  have hl1 : _ ∧ (traceOf s).vbl < 2 ^ 30 := h.engineOperand.vbl_range
  have hv1 : _ ∧ (traceOf s).vb < 2 ^ 30 := h.engineOperand.vb_range
  have hr1 : 1 ≤ (traceOf s).vbr ∧ (traceOf s).vbr < 2 ^ 30 := h.engineOperand.vbr_range
  obtain ⟨-, -, hC, -⟩ := h.bounded.assembled
  refine ⟨h, hv, ?_, ?_, ?_⟩
  · have hfit := fitU_toNat (w := 32) (v := s.vbl.toNat + (s.c.toNat % 2 : Int)) (x := .lower) (s := s)
      (by omega) (by omega)
    change (ruleInterval s).lower.toNat = (traceOf s).vbl + operandC s.raw % 2
    rw [← ruleInterval_lower] at hfit
    omega
  · have hfit := fitU_toNat (w := 32) (v := s.vbr.toNat - (s.c.toNat % 2 : Int)) (x := .upper) (s := s)
      (by omega) (by omega)
    change (ruleInterval s).upper.toNat = (traceOf s).vbr - operandC s.raw % 2
    rw [← ruleInterval_upper] at hfit
    omega
  · have hfit := fitU_toNat (w := 28) (v := (s.vb.toNat / 4 : Nat)) (x := .sReg) (s := s) (by omega) (by omega)
    change (ruleInterval s).sReg.toNat = (traceOf s).vb / 4
    rw [← ruleInterval_sReg] at hfit
    omega

/-! The decision (R112 to R114). -/

theorem decimalResult_of_inEngine (h : InEngine s) : decimalResult s.raw = decide3 (traceOf s) := by
  rw [decimalResult, h.2]
  rfl

/-- SHORTER decides. -/
theorem decide3_of_shorter {t : Trace}
    (h : decide (t.lower ≤ 40 * (t.s / 10)) ≠ decide (40 * (t.s / 10) + 40 ≤ t.upper)) :
    decide3 t = (t.s / 10 + (decide (40 * (t.s / 10) + 40 ≤ t.upper)).toNat, t.k + 1) := if_pos h

/-- DIRECT decides. -/
theorem decide3_of_direct {t : Trace}
    (hs : decide (t.lower ≤ 40 * (t.s / 10)) = decide (40 * (t.s / 10) + 40 ≤ t.upper))
    (h : decide (t.lower ≤ 4 * t.s) ≠ decide (4 * t.s + 4 ≤ t.upper)) :
    decide3 t = (t.s + (decide (4 * t.s + 4 ≤ t.upper)).toNat, t.k) :=
  (if_neg (not_not.mpr hs)).trans (if_pos h)

/-- TIE decides. -/
theorem decide3_of_tie {t : Trace}
    (hs : decide (t.lower ≤ 40 * (t.s / 10)) = decide (40 * (t.s / 10) + 40 ≤ t.upper))
    (h : decide (t.lower ≤ 4 * t.s) = decide (4 * t.s + 4 ≤ t.upper)) :
    decide3 t = (t.s + (roundUp t.vb t.s).toNat, t.k) := by
  have hr : roundUp t.vb t.s = decide (4 * t.s + 2 < t.vb ∨ (t.vb = 4 * t.s + 2 ∧ t.s % 2 = 1)) := by
    simp [roundUp, Bool.beq_eq_decide_eq]
  rw [hr]
  exact (if_neg (not_not.mpr hs)).trans (if_neg (not_not.mpr h))

/-- A candidate of the engine fits SIG. -/
theorem fitU_candidate {m : Nat} (b : Bool) (hm : m < 2 ^ 28) :
    (fitU 32 (m + b.toNat) .sig s).toNat = m + b.toNat := by
  have hb := Bool.toNat_le b
  have hfit := fitU_toNat (w := 32) (v := m + b.toNat) (x := .sig) (s := s) (by omega) (by omega)
  omega

/-- R112: the one shorter candidate inside is the result, else DIRECT follows. -/
theorem phaseInv_ruleShorter (h : Intervalled s) : PhaseInv (ruleShorter s) := by
  have hs1 : _ ∧ (traceOf s).s < 2 ^ 28 := h.1.engineOperand.s_range
  have hk : -45 ≤ (traceOf s).k ∧ (traceOf s).k ≤ 31 := h.1.engineOperand.k_range
  obtain ⟨hlook, hvb, hlo, hup, hS⟩ := h
  obtain ⟨hd, e⟩ | ⟨hd, e⟩ := ruleShorter_cases s <;> rw [e] <;> rw [hlo, hup, hS] at hd
  · have hres := (decimalResult_of_inEngine hlook.bounded.inEngine).trans (decide3_of_shorter hd)
    obtain ⟨hsg, hz, -⟩ := hlook.bounded.assembled
    refine ⟨hsg, hz, ?_, ?_⟩
    · dsimp only
      rw [hres, hup, hS]
      exact fitU_candidate _ (by omega)
    · change (fitS 6 (s.k.toInt + 1) .exp s).toInt = (decimalResult s.raw).2
      rw [hres, hlook.k_eq]
      exact fitS_toInt (by omega) (by omega)
  · exact ⟨⟨hlook, hvb, hlo, hup, hS⟩, hd⟩

/-- R113: the one direct candidate inside is the result, else TIE follows. -/
theorem phaseInv_ruleDirect (h : Intervalled s) (hns : NotShorter s) : PhaseInv (ruleDirect s) := by
  have hs1 : _ ∧ (traceOf s).s < 2 ^ 28 := h.1.engineOperand.s_range
  obtain ⟨hlook, hvb, hlo, hup, hS⟩ := h
  obtain ⟨hd, e⟩ | ⟨hd, e⟩ := ruleDirect_cases s <;> rw [e] <;> rw [hlo, hup, hS] at hd
  · have hres := (decimalResult_of_inEngine hlook.bounded.inEngine).trans (decide3_of_direct hns hd)
    obtain ⟨hsg, hz, -⟩ := hlook.bounded.assembled
    refine ⟨hsg, hz, ?_, ?_⟩
    · dsimp only
      rw [hres, hup, hS]
      exact fitU_candidate _ (by omega)
    · change s.k.toInt = (decimalResult s.raw).2
      rw [hres, hlook.k_eq]
  · exact ⟨⟨hlook, hvb, hlo, hup, hS⟩, hns, hd⟩

/-- R114. -/
theorem decided_ruleTie (h : Intervalled s) (hns : NotShorter s) (hnd : NotDirect s) : Decided (ruleTie s) := by
  have hs1 : _ ∧ (traceOf s).s < 2 ^ 28 := h.1.engineOperand.s_range
  obtain ⟨hlook, hvb, -, -, hS⟩ := h
  have hres := (decimalResult_of_inEngine hlook.bounded.inEngine).trans (decide3_of_tie hns hnd)
  obtain ⟨hsg, hz, -⟩ := hlook.bounded.assembled
  refine ⟨hsg, hz, ?_, ?_⟩
  · simp only [ruleTie]
    rw [hres, hvb, hS]
    exact fitU_candidate _ (by omega)
  · change s.k.toInt = (decimalResult s.raw).2
    rw [hres, hlook.k_eq]

end Sys2Proof.Safety
end

section
/-! The invariant of a run through the layout and the emission (R130 to R140). -/

namespace Sys2Proof.Safety

open Sys2Proof.Machine
open Sys2Proof.Machine.Reference (classOf signText body convert decimal trimZeros decimalResult layout)

variable {s : State}

theorem convert_of_not_infnan {w : Word} (h : classOf w ≠ .infnan) : convert w = signText w ++ body w := if_neg h

theorem body_of_not_zero {w : Word} (h : classOf w ≠ .zero) : body w = layout (decimalResult w).1 (decimalResult w).2 :=
  if_neg h

/-! DIGITS. -/

/-- A digit whose place in DIG exists is read there. -/
theorem digit_eq_getElem? {j : Nat} (hn : s.n.toNat ≤ 9) (hj : j < s.n.toNat) :
    some (s.digit j) = s.dig[9 + j - s.n.toNat]? := by
  rw [State.digit, if_pos (by omega), Vector.getElem?_eq_getElem (by omega), Option.getD_some]

theorem storeDigits_getElem? (dig : Vector Byte 9) {ds : List Byte} {j : Nat} (hn : ds.length ≤ 9)
    (hj : j < ds.length) : (storeDigits dig ds)[9 + j - ds.length]? = ds[j]? := by
  rw [Vector.getElem?_eq_getElem (by omega), storeDigits_getElem, if_pos (by omega),
    show 9 + j - ds.length + ds.length - 9 = j by omega, List.getD_eq_getElem _ _ hj, List.getElem?_eq_getElem hj]

/-- DIGITS for an operand of the rule (R130): everything it does. -/
theorem ruleDigits_of_range (h0 : 1 ≤ s.sig.toNat) (h1 : s.sig.toNat < 10 ^ 9) :
    ruleDigits s =
      { s with
        dig := storeDigits s.dig (decimal s.sig.toNat)
        n := BitVec.ofNat 4 (decimal s.sig.toNat).length
        nk := BitVec.ofNat 4 (trimZeros (decimal s.sig.toNat)).length
        phase := .layout } := by
  rw [ruleDigits, if_pos ⟨h0, h1⟩, sigDigits_eq h0 h1]
  dsimp only
  rw [length_sub_trailingZeros]

theorem Signed.not_infnan (h : Signed s) : classOf s.raw ≠ .infnan := by
  obtain ⟨⟨-, -, -, hi, -⟩, -⟩ := h
  exact hi

theorem Decided.sig_range (h : Decided s) :
    1 ≤ s.sig.toNat ∧ s.sig.toNat < 10 ^ 9 ∧ -45 ≤ s.exp.toInt ∧ s.exp.toInt ≤ 32 := by
  obtain ⟨hsg, hz, hsig, hexp⟩ := h
  rw [hsig, hexp]
  exact decimalResult_range hz hsg.not_infnan

theorem digited_ruleDigits (h : Decided s) : Digited (ruleDigits s) := by
  obtain ⟨h0, h1, -⟩ := h.sig_range
  have hlen := decimal_length_le h1
  have hkn := trimZeros_length_le (decimal s.sig.toNat)
  have hn : (BitVec.ofNat 4 (decimal s.sig.toNat).length).toNat = (decimal s.sig.toNat).length :=
    Nat.mod_eq_of_lt (by omega)
  have hnk : (BitVec.ofNat 4 (trimZeros (decimal s.sig.toNat)).length).toNat = (trimZeros (decimal s.sig.toNat)).length :=
    Nat.mod_eq_of_lt (by omega)
  rw [ruleDigits_of_range h0 h1]
  refine ⟨h, hn, hnk, fun j hj => ?_⟩
  dsimp only at hj ⊢
  rw [digit_eq_getElem? (by dsimp only; omega) hj]
  dsimp only
  rw [hn]
  exact storeDigits_getElem? s.dig hlen (by omega)

theorem Digited.n_le (h : Digited s) : s.n.toNat ≤ 9 := by
  obtain ⟨hdec, hn, -⟩ := h
  obtain ⟨-, h1, -⟩ := hdec.sig_range
  rw [hn]
  exact decimal_length_le h1

/-! LAYOUT and ZERO stage the body. -/

theorem storeText_getElem? (txt : Vector Byte 21) {t : List Byte} {i : Nat} (hlen : t.length ≤ 21) (hi : i < t.length) :
    (storeText txt t)[i]? = t[i]? := by
  rw [Vector.getElem?_eq_getElem (by omega), storeText_getElem, List.getD_eq_getElem _ _ hi,
    List.getElem?_eq_getElem hi]

theorem body_length {w : Word} (hi : classOf w ≠ .infnan) : 1 ≤ (body w).length ∧ (body w).length ≤ 21 := by
  by_cases hz : classOf w = .zero
  · rw [show body w = [0x30] from if_pos hz]
    decide
  · obtain ⟨h0, h1, h2, h3⟩ := decimalResult_range hz hi
    rw [body_of_not_zero hz]
    exact layout_length h0 h1 h2 h3

/-- A state that has the sign written and the body staged is ready to emit it. -/
theorem emitting_of_staged (h : Signed s) (hl : s.tlen.toNat = (body s.raw).length)
    (ht : ∀ i, i < (body s.raw).length → s.txt[i]? = (body s.raw)[i]?) : Emitting s := by
  obtain ⟨⟨hsign, -, -, hi, hlen⟩, hpos, hout⟩ := h
  have hb := body_length hi
  have hsl := signText_length s.raw
  refine ⟨hsign, hlen, hi, hl, hb.2, fun i hlt => ht i (by omega), ?_, ?_, ?_⟩
  · rw [hsign]; omega
  · rw [convert_of_not_infnan hi, List.length_append]; omega
  · rw [convert_of_not_infnan hi, hpos, List.take_left]
    exact hout

/-- R83. -/
theorem emitting_ruleZero (h : Signed s) (hz : classOf s.raw = .zero) : Emitting (ruleZero s) := by
  have hb : body s.raw = [0x30] := if_pos hz
  refine emitting_of_staged (s := ruleZero s) h ?_ fun i hi => ?_
  · change 1 = (body s.raw).length
    rw [hb]
    rfl
  · change i < (body s.raw).length at hi
    change (storeText s.txt [0x30])[i]? = (body s.raw)[i]?
    rw [hb] at hi ⊢
    exact storeText_getElem? s.txt (by decide) hi

/-- R131 to R138. -/
theorem emitting_ruleLayout (h : Digited s) : Emitting (ruleLayout s) := by
  have hn9 := h.n_le
  obtain ⟨hdec, hn, hnk, hdig⟩ := h
  obtain ⟨h0, h1, h2, h3⟩ := hdec.sig_range
  obtain ⟨hsg, hz, hsig, hexp⟩ := hdec
  have hn1 := decimal_length_pos h0
  have hread : Reads s.digit (decimal s.sig.toNat) := fun j hj => hdig j (by omega)
  have htext : (layoutText Config.encoder s.digit s.n.toNat s.nk.toNat (s.n.toNat + s.exp.toInt)).2 = body s.raw := by
    rw [hn, hnk, layoutText_eq hread h0 (by omega), hsig, hexp, body_of_not_zero hz]
  have hb := body_length hsg.not_infnan
  rw [ruleLayout_of_stated (textStated_of (by omega) hn9 h2 h3)]
  dsimp only
  rw [htext]
  refine emitting_of_staged hsg ?_ fun i hi => storeText_getElem? s.txt hb.2 hi
  have hfit := fitU_toNat (w := 5) (v := (body s.raw).length) (x := .tlen) (s := s) (by omega) (by omega)
  dsimp only
  omega

/-! EMIT. -/

/-- R140: the byte EMIT takes is the next one of the text. -/
theorem Emitting.bodyByte_eq (h : Emitting s) : some s.bodyByte = (convert s.raw)[s.pos.toNat]? := by
  obtain ⟨hsign, -, hi, hl, h21, htxt, hle, hlt, -⟩ := h
  have hsl := signText_length s.raw
  rw [← hsign] at hsl
  rw [convert_of_not_infnan hi] at hlt ⊢
  rw [List.length_append] at hlt
  have hidx : s.bodyIndex.toNat = s.pos.toNat - s.sign.toNat := by simp only [State.bodyIndex]; omega
  have hnonneg : 0 ≤ s.bodyIndex := by simp only [State.bodyIndex]; omega
  rw [State.bodyByte, if_pos hnonneg, hidx, Vector.getElem?_eq_getElem (by omega), Option.getD_some,
    ← Vector.getElem?_eq_getElem (by omega), htxt _ (by omega), List.getElem?_append_right (by omega), hsl]

/-- The first `k` bytes of a text in OUT and the next byte make its first `k + 1` bytes. -/
theorem holds_write {m : Memory} {t : List Byte} {k : Nat} {b : Byte}
    (hm : ∀ i (hi : i < (t.take k).length), m.read? i = some (t.take k)[i]) (hb : some b = t[k]?) :
    ∀ i (hi : i < (t.take (k + 1)).length), (m.write k b).read? i = some (t.take (k + 1))[i] := by
  intro i hi
  rw [List.length_take] at hi
  rw [List.getElem_take]
  rcases Nat.lt_or_ge i k with hik | hik
  · rw [read?_write_other _ _ (by omega), hm i (by rw [List.length_take]; omega), List.getElem_take]
  · obtain rfl : i = k := by omega
    rw [read?_write_same, hb, List.getElem?_eq_getElem]

theorem phaseInv_ruleEmit (h : Emitting s) : PhaseInv (ruleEmit s) := by
  have hbyte := h.bodyByte_eq
  obtain ⟨hsign, hlen, hi, hl, h21, htxt, hle, hlt, hout⟩ := h
  have hsl := signText_length s.raw
  rw [← hsign] at hsl
  have hcl : (convert s.raw).length = (signText s.raw).length + (body s.raw).length := by
    rw [convert_of_not_infnan hi, List.length_append]
  have hsg := s.sign.isLt
  have hfit := fitU_toNat (w := 5) (v := s.pos.toNat + 1) (x := .pos) (s := s) (by omega) (by omega)
  obtain ⟨hlast, e⟩ | ⟨hmore, e⟩ := emitByte_cases s.bodyByte s <;> rw [ruleEmit, e]
  · refine ⟨?_, rfl⟩
    simp only [State.bodyIndex] at hlast
    dsimp only [memWrite_raw]
    omega
  · simp only [State.bodyIndex] at hmore
    refine ⟨hsign, hlen, hi, hl, h21, htxt, ?_, ?_, ?_⟩
    · dsimp only [memWrite_sign]
      omega
    · dsimp only [memWrite_raw]
      omega
    · have hpos : (fitU 5 (s.pos.toNat + 1) .pos s).toNat = s.pos.toNat + 1 := by omega
      dsimp only [memWrite_raw]
      rw [hpos]
      exact holds_write hout hbyte

end Sys2Proof.Safety
end

section
/-! Every step keeps the invariant of a run (R36, R56, R90, R121). -/

namespace Sys2Proof.Safety

open Sys2Proof.Machine

section

variable {s t : State}

/-- The digits that LAYOUT reads stand in DIG, so they do not depend on the number of the step. -/
theorem digited_beginStep (p : Ports) (h : Digited s) : Digited (beginStep p s) := by
  have hn9 := h.n_le
  obtain ⟨hdec, hn, hnk, hdig⟩ := h
  refine ⟨hdec, hn, hnk, fun j hj => ?_⟩
  have hj' : j < s.n.toNat := hj
  exact (digit_eq_getElem? (s := beginStep p s) hn9 hj).trans ((digit_eq_getElem? hn9 hj').symm.trans (hdig j hj'))

/-- The frame of a step writes no register that the invariant speaks of. -/
theorem phaseInv_beginStep (p : Ports) (h : PhaseInv s) : PhaseInv (beginStep p s) := by
  by_cases hl : s.phase = .layout
  · simp only [PhaseInv, beginStep_phase, hl] at h ⊢
    exact digited_beginStep p h
  · unfold PhaseInv at h ⊢
    rw [beginStep_phase]
    cases hp : s.phase <;> rw [hp] at h
    case layout => exact absurd hp hl
    all_goals exact h

/-- Each phase leaves what the next one reads. -/
theorem phaseInv_phaseRule (h : PhaseInv s) : PhaseInv (phaseRule s) := by
  have hinv := h
  unfold PhaseInv at h
  unfold phaseRule
  cases hp : s.phase <;> rw [hp] at h
  case idle | done => exact phaseInv_handshake hinv
  case decode => exact phaseInv_ruleDecode h.1 h.2
  case signw => exact phaseInv_ruleSignw h.1 h.2
  case zero => exact emitting_ruleZero h.1 h.2
  case normal =>
    obtain ⟨hs, hz, he⟩ := h
    exact phaseInv_ruleNormal hs hz he
  case subnormal =>
    obtain ⟨hs, hz, he⟩ := h
    exact inEngine_ruleSubnormal hs hz he
  case fastint => exact decided_ruleFastint h.1 h.2
  case bounds => exact bounded_ruleBounds h
  case expk => exact exponented_ruleExpk h
  case shifth => exact aligned_ruleShifth h
  case lut =>
    have hg := lookedUp_ruleLut h
    rw [ruleLut_of_aligned h] at hg ⊢
    exact hg
  case mull => exact ⟨h, mull_writes_vbl h⟩
  case mulc =>
    obtain ⟨hg, hl⟩ := h
    exact ⟨hg, hl, mulc_writes_vb hg⟩
  case mulr =>
    obtain ⟨hg, hl, hv⟩ := h
    exact ⟨hg, hl, hv, mulr_writes_vbr hg⟩
  case interval =>
    obtain ⟨hg, hl, hv, hr⟩ := h
    exact intervalled_ruleInterval hg hl hv hr
  case shorter => exact phaseInv_ruleShorter h
  case direct => exact phaseInv_ruleDirect h.1 h.2
  case tie =>
    obtain ⟨hi, hns, hnd⟩ := h
    exact decided_ruleTie hi hns hnd
  case digits =>
    have hd := digited_ruleDigits h
    obtain ⟨h0, h1, -⟩ := h.sig_range
    rw [ruleDigits_of_range h0 h1] at hd ⊢
    exact hd
  case layout => exact emitting_ruleLayout h
  case emit => exact phaseInv_ruleEmit h
  case fault => exact h.elim

/-! OUT, FAULT and CAUSE. -/

/-- A phase rule leaves OUT, or writes one byte of it at POS (R40, R48). -/
theorem phaseRule_out (s : State) :
    (phaseRule s).out = s.out ∨ ∃ b, (phaseRule s).out = s.out.write s.pos.toNat b := by
  unfold phaseRule
  cases s.phase with
  | signw =>
    obtain ⟨_, -, ⟨-, e⟩ | ⟨-, e⟩⟩ := ruleSignw_cases s
    · exact .inr ⟨_, (congrArg State.out e :)⟩
    · exact .inl (congrArg State.out e :)
  | emit =>
    obtain ⟨-, e⟩ | ⟨-, e⟩ := emitByte_cases s.bodyByte s
    · exact .inr ⟨_, (congrArg State.out e :)⟩
    · exact .inr ⟨_, (congrArg State.out e :)⟩
  | idle | done =>
    obtain ⟨-, e⟩ | ⟨-, e⟩ := handshake_cases s
    · exact .inl (congrArg State.out e :)
    · exact .inl (congrArg State.out e :)
  | decode => obtain ⟨_, _, _, _, _, e⟩ := ruleDecode_writes s; exact .inl (congrArg State.out e :)
  | lut => obtain ⟨_, _, _, _, e⟩ := ruleLut_writes s; exact .inl (congrArg State.out e :)
  | shorter => obtain ⟨_, _, _, e⟩ := ruleShorter_writes s; exact .inl (congrArg State.out e :)
  | direct => obtain ⟨_, _, _, e⟩ := ruleDirect_writes s; exact .inl (congrArg State.out e :)
  | digits => obtain ⟨_, _, _, _, e⟩ := ruleDigits_writes s; exact .inl (congrArg State.out e :)
  | zero | normal | subnormal | fastint | bounds | expk | shifth | mull | mulc | mulr | interval | tie | layout | fault =>
    exact .inl rfl

theorem wf_phaseRule (h : Memory.wf s.out = true) : Memory.wf (phaseRule s).out = true := by
  obtain e | ⟨b, e⟩ := phaseRule_out s <;> rw [e]
  · exact h
  · exact wf_write s.pos b h

/-- FAULT and CAUSE are written in LUT only, and there the tests hold. -/
theorem fault_cause_of_blockStep {p : Ports} (hp : p.rst = false) (h : PhaseInv s) (ht : blockStep p s = .next t) :
    t.fault = s.fault ∧ t.cause = s.cause := by
  by_cases hl : s.phase = .lut
  · have ha : Aligned (beginStep p s) := by
      have hb := phaseInv_beginStep p h
      simpa only [PhaseInv, beginStep_phase, hl] using hb
    rw [blockStep_of_rst_false s hp, hl, show Phase.lut.instr = .lut from rfl, exec_lut, ruleLut_of_aligned ha] at ht
    cases ht
    exact ⟨rfl, rfl⟩
  · obtain ⟨-, -, -, -, -, -, hlut, -⟩ := registersChangeOnlyInTheirPhases p s t hp ht
    exact ⟨by_contra fun hf => hl (hlut (.inr (.inl hf))), by_contra fun hc => hl (hlut (.inr (.inr hc)))⟩

/-! The steps. -/

theorem runInvariant_blockStep {p : Ports} (h : RunInvariant s) (ht : blockStep p s = .next t) : RunInvariant t := by
  obtain ⟨hwf, hf, hc, hph⟩ := h
  by_cases hp : p.rst = true
  · rw [blockStep_eq, if_pos hp] at ht
    cases ht
    exact ⟨hwf, rfl, rfl, rfl, rfl⟩
  · obtain ⟨hft, hct⟩ := fault_cause_of_blockStep (by simpa using hp) hph ht
    rw [blockStep_eq, if_neg hp] at ht
    cases ht
    exact ⟨wf_phaseRule hwf, hft.trans hf, hct.trans hc, phaseInv_phaseRule (phaseInv_beginStep p hph)⟩

theorem runInvariant_quietStep (h : RunInvariant s) : RunInvariant (quietStep s) :=
  runInvariant_blockStep h (blockStep_eq (Ports.quiet s) s)

theorem runInvariant_requestStep (w : Word) (h : RunInvariant s) : RunInvariant (requestStep w s) :=
  runInvariant_blockStep h (blockStep_eq { rst := false, start := true, inBits := w } s)

theorem runInvariant_runWhileBusy (fuel : Nat) (h : RunInvariant s) : RunInvariant (runWhileBusy fuel s) := by
  induction fuel generalizing s with
  | zero => exact h
  | succ fuel ih =>
    unfold runWhileBusy
    split
    · exact ih (runInvariant_quietStep h)
    · exact h

/-- A CONVERT line is a START step and quiet steps (R76). -/
theorem runInvariant_convertWord (w : Word) (h : RunInvariant s) : RunInvariant (convertWord w s) := by
  unfold convertWord
  split
  · exact runInvariant_runWhileBusy _ (runInvariant_requestStep w h)
  · exact runInvariant_requestStep w h

/-- While the block is not busy the invariant asks nothing of the bytes of OUT. -/
theorem phaseInv_of_not_busy (rest : List HostAction) (m : Memory) (hb : s.busy = false) (h : PhaseInv s) :
    PhaseInv { s with host := rest, out := m } := by
  have hph : s.phase = .idle ∨ s.phase = .done ∨ s.phase = .fault := by
    by_contra hne
    simp only [not_or] at hne
    exact Bool.false_ne_true (hb.symm.trans ((busy_iff s).mpr hne))
  unfold PhaseInv at h ⊢
  obtain hp | hp | hp := hph <;> rw [hp] at h <;> dsimp only <;> rw [hp]
  · exact h
  · exact h
  · exact h

/-- The invariant does not speak of the host's pending actions. -/
theorem runInvariant_host (rest : List HostAction) (h : RunInvariant s) : RunInvariant { s with host := rest } := h

end

/-- Settles O59: an action of the host is steps of the block, or a byte it writes while the block is not busy. -/
theorem everyStepKeepsTheInvariant : Obligations.EveryStepKeepsTheInvariant := by
  intro s t h ht
  obtain ⟨-, hb⟩ | ⟨p, rest, -, hb⟩ | ⟨w, rest, -, hx⟩ | ⟨off, b, rest, -, hbusy, rfl⟩ := step_next_cases ht
  · exact runInvariant_blockStep h hb
  · exact runInvariant_blockStep (runInvariant_host rest h) hb
  · obtain ⟨w', e⟩ := exec_decodeOperand w { s with host := rest }
    rw [e] at hx
    cases hx
    exact runInvariant_convertWord w' (runInvariant_host rest h)
  · obtain ⟨hwf, hf, hc, hph⟩ := h
    exact ⟨wf_write off b hwf, hf, hc, phaseInv_of_not_busy rest _ hbusy hph⟩

end Sys2Proof.Safety
end

section
/-! The tables (R41 to R46): the ceilings are compared with the powers of ten as natural numbers, over a common
denominator. -/

namespace Sys2Proof.Machine

/-- A power with a sign in its exponent as a quotient of two without. -/
theorem zpow_eq_pow_div_pow (b : ℚ) (e : ℤ) : b ^ e = b ^ e.toNat / b ^ (-e).toNat := by
  obtain ⟨n, rfl | rfl⟩ := e.eq_nat_or_neg
  · simp
  · simp

/-- `m 2^r <= 10^e`, as natural numbers. -/
def scaledLePow10 (m : ℕ) (r e : ℤ) : Bool := m * 2 ^ r.toNat * 10 ^ (-e).toNat ≤ 10 ^ e.toNat * 2 ^ (-r).toNat

/-- `10^e <= m 2^r`, as natural numbers. -/
def pow10LeScaled (m : ℕ) (r e : ℤ) : Bool := 10 ^ e.toNat * 2 ^ (-r).toNat ≤ m * 2 ^ r.toNat * 10 ^ (-e).toNat

theorem scaledLePow10_iff (m : ℕ) (r e : ℤ) : scaledLePow10 m r e = true ↔ (m : ℚ) * 2 ^ r ≤ 10 ^ e := by
  rw [zpow_eq_pow_div_pow 2, zpow_eq_pow_div_pow 10, ← mul_div_assoc, div_le_div_iff₀ (by positivity) (by positivity)]
  simp only [scaledLePow10, decide_eq_true_eq]
  norm_cast

theorem pow10LeScaled_iff (m : ℕ) (r e : ℤ) : pow10LeScaled m r e = true ↔ (10 : ℚ) ^ e ≤ m * 2 ^ r := by
  rw [zpow_eq_pow_div_pow 2, zpow_eq_pow_div_pow 10, ← mul_div_assoc, div_le_div_iff₀ (by positivity) (by positivity)]
  simp only [pow10LeScaled, decide_eq_true_eq]
  norm_cast

/-- The binary exponent r(e) of an entry: the one with `2^63 <= 10^e 2^(-r) < 2^64` (R41). -/
def entryExp (e : ℤ) : ℤ := e * 1741647 / 2 ^ 19 - 63

/-- An entry is the ceiling of `10^e 2^(-r)`: it reaches it, the number before it does not. -/
def isCeilingEntry (e : ℤ) : Bool :=
  pow10LeScaled (pow10 e).toNat (entryExp e) e && !pow10LeScaled ((pow10 e).toNat - 1) (entryExp e) e

/-- `floor(log2(10^e))` is `r(e) + 63`. -/
def isEntryExp (e : ℤ) : Bool := scaledLePow10 1 (entryExp e + 63) e && !scaledLePow10 1 (entryExp e + 64) e

/-- An entry is exact where R45 says so. -/
def isExactAsStated (e : ℤ) : Bool := scaledLePow10 (pow10 e).toNat (entryExp e) e == (decide (0 ≤ e) && decide (e ≤ 27))

/-- The 77 constants of R44 against the powers they stand for. -/
theorem pow10Table_ceilings :
    ∀ i < 77, (isEntryExp ((i : ℕ) - 31) && isCeilingEntry ((i : ℕ) - 31) && isExactAsStated ((i : ℕ) - 31)) = true := by
  decide +kernel

/-- The same for an exponent in R43's range. -/
theorem pow10_entry {e : ℤ} (h0 : -31 ≤ e) (h1 : e ≤ 45) :
    isEntryExp e = true ∧ isCeilingEntry e = true ∧ isExactAsStated e = true := by
  have h := pow10Table_ceilings (e + 31).toNat (by omega)
  rw [show ((e + 31).toNat : ℤ) - 31 = e by omega] at h
  simpa only [Bool.and_eq_true, and_assoc] using h

/-- `r(e) + 63` is the floor of the binary logarithm of `10^e` (R41). -/
theorem two_zpow_entryExp_bounds {e : ℤ} (h : isEntryExp e = true) :
    (2 : ℚ) ^ (entryExp e + 63) ≤ 10 ^ e ∧ (10 : ℚ) ^ e < 2 ^ (entryExp e + 64) := by
  simp only [isEntryExp, Bool.and_eq_true, Bool.not_eq_true', ← Bool.not_eq_true, scaledLePow10_iff,
    not_le, Nat.cast_one, one_mul] at h
  exact h

/-- The two sides of the ceiling (R45). -/
theorem ceiling_bounds {e : ℤ} (hpos : 1 ≤ (pow10 e).toNat) (h : isCeilingEntry e = true) :
    (((pow10 e).toNat : ℚ) - 1) * 2 ^ entryExp e < 10 ^ e ∧ (10 : ℚ) ^ e ≤ (pow10 e).toNat * 2 ^ entryExp e := by
  simp only [isCeilingEntry, Bool.and_eq_true, Bool.not_eq_true', ← Bool.not_eq_true, pow10LeScaled_iff, not_le,
    Nat.cast_sub hpos, Nat.cast_one] at h
  exact h.symm

/-- A ceiling is exact when it does not exceed what it is the ceiling of (R45). -/
theorem ceiling_exact_iff {e : ℤ} (hc : (10 : ℚ) ^ e ≤ (pow10 e).toNat * 2 ^ entryExp e)
    (h : isExactAsStated e = true) :
    ((pow10 e).toNat : ℚ) * 2 ^ entryExp e = 10 ^ e ↔ 0 ≤ e ∧ e ≤ 27 := by
  have hle : ((pow10 e).toNat : ℚ) * 2 ^ entryExp e ≤ 10 ^ e ↔ 0 ≤ e ∧ e ≤ 27 := by
    rw [← scaledLePow10_iff, beq_iff_eq.mp h, Bool.and_eq_true, decide_eq_true_eq, decide_eq_true_eq]
  exact ⟨fun he => hle.mp he.le, fun hr => le_antisymm (hle.mpr hr) hc⟩

/-- Settles O19: the constants are compared once with the powers as natural numbers, and the comparisons carried over to
the rationals. -/
theorem tableEntriesAreTheCeilings : Obligations.TableEntriesAreTheCeilings := by
  intro e h0 h1
  obtain ⟨hexp, hceil, hexact⟩ := pow10_entry h0 h1
  obtain ⟨hlo, hhi⟩ := two_zpow_entryExp_bounds hexp
  have hge : 2 ^ 63 ≤ (pow10 e).toNat := pow10_ge h0 h1
  obtain ⟨hbelow, habove⟩ := ceiling_bounds (by omega) hceil
  exact ⟨hlo, hhi, hge, hbelow, habove, ceiling_exact_iff habove hexact⟩

theorem chr_toNat {d : ℕ} (h : d < 10) : (chr d).toNat = 0x30 + d := by
  rw [chr, BitVec.toNat_ofNat]
  omega

/-- Settles O20: the quotient and the remainder of a number below 100 are digits. -/
theorem pairsAreTwoDigitCharacters : Obligations.PairsAreTwoDigitCharacters :=
  fun i hi => ⟨chr_toNat (d := i / 10) (by omega), chr_toNat (d := i % 10) (by omega)⟩

end Sys2Proof.Machine
end

section
/-! OUT and the write port (R40, R47, R48): a MemWrite, a phase rule, a step of the block, a step of the machine. -/

namespace Sys2Proof.Safety

open Sys2Proof.Machine

/-- Settles O51: reading back over writing, at the offset and elsewhere. -/
theorem memWriteStoresOneByte : Obligations.MemWriteStoresOneByte :=
  fun off b s => ⟨read?_write_same s.out off.toNat b, fun _ ha => read?_write_other s.out b ha, rfl, wf_write off b⟩

/-- What a rule does to OUT and the write port between `s` and `t`: nothing, or a MemWrite at POS in a phase that
writes. -/
def WritesAtPos (s t : State) : Prop :=
  (t.out = s.out ∧ t.wrEn = s.wrEn) ∨
    ((s.phase = .signw ∨ s.phase = .emit) ∧
      t.out = s.out.write s.pos.toNat t.wrData ∧ t.wrEn = true ∧ t.wrOff = s.pos)

/-- R40, R48: only SIGNW and EMIT perform a MemWrite. -/
theorem writesAtPos_phaseRule (s : State) : WritesAtPos s (phaseRule s) := by
  unfold phaseRule
  cases hp : s.phase with
  | signw =>
    obtain ⟨_, -, ⟨-, e⟩ | ⟨-, e⟩⟩ := ruleSignw_cases s <;> dsimp only <;> rw [e]
    · exact .inr ⟨.inl hp, rfl, rfl, rfl⟩
    · exact .inl ⟨rfl, rfl⟩
  | emit =>
    obtain ⟨-, e⟩ | ⟨-, e⟩ := emitByte_cases s.bodyByte s <;> dsimp only [ruleEmit] <;> rw [e]
    · exact .inr ⟨.inr hp, rfl, rfl, rfl⟩
    · exact .inr ⟨.inr hp, rfl, rfl, rfl⟩
  | idle | done =>
    obtain ⟨-, e⟩ | ⟨-, e⟩ := handshake_cases s <;> dsimp only [ruleIdle, ruleDone] <;> rw [e]
    · exact .inl ⟨rfl, rfl⟩
    · exact .inl ⟨rfl, rfl⟩
  | decode => obtain ⟨_, _, _, _, _, e⟩ := ruleDecode_writes s; exact .inl (by simp [e])
  | lut => obtain ⟨_, _, _, _, e⟩ := ruleLut_writes s; exact .inl (by simp [e])
  | shorter => obtain ⟨_, _, _, e⟩ := ruleShorter_writes s; exact .inl (by simp [e])
  | direct => obtain ⟨_, _, _, e⟩ := ruleDirect_writes s; exact .inl (by simp [e])
  | digits => obtain ⟨_, _, _, _, e⟩ := ruleDigits_writes s; exact .inl (by simp [e])
  | zero | normal | subnormal | fastint | bounds | expk | shifth | mull | mulc | mulr | interval | tie | layout | fault =>
    exact .inl ⟨rfl, rfl⟩

/-- Settles O52: a step begins with `wr_en` = 0, reset performs no MemWrite, and the phase rule performs at most one. -/
theorem onlySignwAndEmitWriteOut : Obligations.OnlySignwAndEmitWriteOut := by
  intro p s t ht
  rw [blockStep_eq] at ht
  by_cases hr : p.rst = true
  · rw [if_pos hr] at ht
    cases ht
    exact .inr ⟨rfl, fun _ => rfl⟩
  · rw [if_neg hr] at ht
    cases ht
    obtain ⟨hout, hen⟩ | ⟨hph, hout, hen, hoff⟩ := writesAtPos_phaseRule (beginStep p s)
    · exact .inr ⟨hen, fun a => congrArg (Memory.read? · a) hout⟩
    · rw [beginStep_out, beginStep_pos] at hout
      refine .inl ⟨hen, hph, by simpa using hr, hoff, ?_, fun a ha => ?_⟩
      · exact (congrArg (Memory.read? · _) hout).trans (read?_write_same _ _ _)
      · exact (congrArg (Memory.read? · a) hout).trans (read?_write_other _ _ ha)

/-- What every step of the block keeps, a CONVERT line keeps: it is a START step and quiet steps (R76). -/
theorem convertWord_keeps {P : State → Prop} (hstep : ∀ (p : Ports) (s t : State), P s → blockStep p s = .next t → P t)
    (w : Word) {s : State} (h : P s) : P (convertWord w s) := by
  have hquiet (s : State) (h : P s) : P (quietStep s) := hstep (Ports.quiet s) s _ h (blockStep_eq (Ports.quiet s) s)
  have hrun (fuel : ℕ) : ∀ s, P s → P (runWhileBusy fuel s) := by
    induction fuel with
    | zero => exact fun _ h => h
    | succ fuel ih =>
      intro s h
      unfold runWhileBusy
      split
      · exact ih _ (hquiet s h)
      · exact h
  have hrequest : P (requestStep w s) := hstep ⟨false, true, w⟩ s _ h (blockStep_eq ⟨false, true, w⟩ s)
  unfold convertWord
  split
  · exact hrun _ _ hrequest
  · exact hrequest

theorem wf_blockStep (p : Ports) (s t : State) (h : Memory.wf s.out = true) (ht : blockStep p s = .next t) :
    Memory.wf t.out = true := by
  rw [blockStep_eq] at ht
  cases ht
  split
  · exact h
  · exact wf_phaseRule h

/-- Settles O57: an action of the host is steps of the block, or a byte it writes at an offset of the space. -/
theorem everyStepKeepsOutCanonical : Obligations.EveryStepKeepsOutCanonical := by
  intro s t h ht
  obtain ⟨-, hb⟩ | ⟨p, rest, -, hb⟩ | ⟨w, rest, -, hx⟩ | ⟨off, b, rest, -, -, rfl⟩ := step_next_cases ht
  · exact wf_blockStep (Ports.quiet s) s t h hb
  · exact wf_blockStep p { s with host := rest } t h hb
  · obtain ⟨w', e⟩ := exec_decodeOperand w { s with host := rest }
    rw [e] at hx
    cases hx
    exact convertWord_keeps (P := fun s => Memory.wf s.out = true) wf_blockStep w' h
  · exact wf_write off b h

end Sys2Proof.Safety
end

section
/-! The encoding (R60, R62, R70, R72): the fields of an operand word as numbers, the class of a word, and the decoder and
the encoder as inverses. -/

namespace Sys2Proof.Machine

/-! The fields of the operand word (R60) and its bytes. -/

theorem signField_toNat (w : Word) : (signField w).toNat = w.toNat / 2 ^ 31 := by
  rw [signField, BitVec.extractLsb'_toNat, Nat.shiftRight_eq_div_pow]
  omega

theorem expField_toNat (w : Word) : (expField w).toNat = w.toNat / 2 ^ 23 % 256 := by
  rw [expField, BitVec.extractLsb'_toNat, Nat.shiftRight_eq_div_pow]

theorem mantField_toNat (w : Word) : (mantField w).toNat = w.toNat % 2 ^ 23 := by
  rw [mantField, BitVec.extractLsb'_toNat, Nat.shiftRight_zero]

theorem operandWord_toNat (sign : BitVec 1) (ef : BitVec 8) (mf : BitVec 23) :
    (operandWord sign ef mf).toNat = sign.toNat * 2 ^ 31 + ef.toNat * 2 ^ 23 + mf.toNat := by
  rw [operandWord, BitVec.toNat_cast, toNat_append_eq_mul_add, toNat_append_eq_mul_add]
  omega

@[simp] theorem signField_operandWord (sign : BitVec 1) (ef : BitVec 8) (mf : BitVec 23) :
    signField (operandWord sign ef mf) = sign := by
  rw [← BitVec.toNat_inj, signField_toNat, operandWord_toNat]
  omega

@[simp] theorem expField_operandWord (sign : BitVec 1) (ef : BitVec 8) (mf : BitVec 23) :
    expField (operandWord sign ef mf) = ef := by
  rw [← BitVec.toNat_inj, expField_toNat, operandWord_toNat]
  omega

@[simp] theorem mantField_operandWord (sign : BitVec 1) (ef : BitVec 8) (mf : BitVec 23) :
    mantField (operandWord sign ef mf) = mf := by
  rw [← BitVec.toNat_inj, mantField_toNat, operandWord_toNat]
  omega

/-- The three fields are all of the word. -/
theorem operandWord_fields (w : Word) : operandWord (signField w) (expField w) (mantField w) = w := by
  rw [← BitVec.toNat_inj, operandWord_toNat, signField_toNat, expField_toNat, mantField_toNat]
  omega

theorem wordOfBytes_toNat (b0 b1 b2 b3 : Byte) :
    (wordOfBytes b0 b1 b2 b3).toNat = b3.toNat * 2 ^ 24 + b2.toNat * 2 ^ 16 + b1.toNat * 2 ^ 8 + b0.toNat := by
  rw [wordOfBytes, BitVec.toNat_cast]
  simp only [toNat_append_eq_mul_add]
  omega

/-- Four bytes are the bytes of the word they are put together to. -/
theorem bytesOfWord_wordOfBytes (b0 b1 b2 b3 : Byte) : bytesOfWord (wordOfBytes b0 b1 b2 b3) = [b0, b1, b2, b3] := by
  simp only [bytesOfWord, List.cons.injEq, and_true, ← BitVec.toNat_inj, BitVec.extractLsb'_toNat, wordOfBytes_toNat,
    Nat.shiftRight_eq_div_pow]
  omega

/-! The class of an operand word (R62). -/

theorem fastOperand_iff (ef : BitVec 8) (mf : BitVec 23) :
    fastOperand ef mf = true ↔ 127 ≤ ef.toNat ∧ ef.toNat ≤ 150 ∧ mf.toNat % 2 ^ (150 - ef.toNat) = 0 := by
  simp [fastOperand, and_assoc]

/-- A fast operand is a normal one. -/
theorem exp_ne_of_fastOperand {ef : BitVec 8} {mf : BitVec 23} (h : fastOperand ef mf = true) : ef ≠ 0 ∧ ef ≠ 255 := by
  obtain ⟨hlo, hhi, -⟩ := (fastOperand_iff ef mf).mp h
  constructor <;> rintro rfl
  · exact absurd hlo (by decide)
  · exact absurd hhi (by decide)

/-- The five classes with their conditions: what the decoder can answer for an operand word. -/
theorem decodeOperand_cases (w : Word) :
    (expField w = 255 ∧ decodeOperand w = .convertInfnan (signField w) (mantField w)) ∨
    (expField w = 0 ∧ mantField w = 0 ∧ decodeOperand w = .convertZero (signField w)) ∨
    (expField w = 0 ∧ mantField w ≠ 0 ∧ decodeOperand w = .convertSubnormal (signField w) (mantField w)) ∨
    (fastOperand (expField w) (mantField w) = true ∧
      decodeOperand w = .convertNormalFastint (signField w) (expField w) (mantField w)) ∨
    (expField w ≠ 0 ∧ expField w ≠ 255 ∧ fastOperand (expField w) (mantField w) = false ∧
      decodeOperand w = .convertNormalEngine (signField w) (expField w) (mantField w)) := by
  unfold decodeOperand
  by_cases hi : expField w = 255
  · exact .inl ⟨hi, if_pos hi⟩
  rw [if_neg hi]
  by_cases h0 : expField w = 0
  · by_cases hm : mantField w = 0
    · exact .inr (.inl ⟨h0, hm, if_pos ⟨h0, hm⟩⟩)
    · exact .inr (.inr (.inl ⟨h0, hm, by rw [if_neg (fun h => hm h.2), if_pos h0]⟩))
  rw [if_neg (fun h => h0 h.1), if_neg h0]
  cases hf : fastOperand (expField w) (mantField w)
  · exact .inr (.inr (.inr (.inr ⟨h0, hi, rfl, rfl⟩)))
  · exact .inr (.inr (.inr (.inl ⟨rfl, rfl⟩)))

theorem wellFormed_subnormal_iff (sign : BitVec 1) (mf : BitVec 23) :
    WellFormed (.convertSubnormal sign mf) ↔ mf ≠ 0 := by
  simp [WellFormed, wellFormed]

theorem wellFormed_normalEngine_iff (sign : BitVec 1) (ef : BitVec 8) (mf : BitVec 23) :
    WellFormed (.convertNormalEngine sign ef mf) ↔ ef ≠ 0 ∧ ef ≠ 255 ∧ fastOperand ef mf = false := by
  simp [WellFormed, wellFormed, and_assoc]

theorem wellFormed_decodeOperand (w : Word) : WellFormed (decodeOperand w) := by
  obtain ⟨-, e⟩ | ⟨-, -, e⟩ | ⟨-, hm, e⟩ | ⟨hf, e⟩ | ⟨h0, hi, hf, e⟩ := decodeOperand_cases w <;> rw [e]
  · rfl
  · rfl
  · exact (wellFormed_subnormal_iff _ _).mpr hm
  · exact hf
  · exact (wellFormed_normalEngine_iff _ _ _).mpr ⟨h0, hi, hf⟩

/-- The encoder puts the fields of a class back where the decoder took them from. -/
theorem encode_decodeOperand (w : Word) : encode (decodeOperand w) = bytesOfWord w := by
  have hw := operandWord_fields w
  obtain ⟨hi, e⟩ | ⟨h0, hm, e⟩ | ⟨h0, -, e⟩ | ⟨-, e⟩ | ⟨-, -, -, e⟩ := decodeOperand_cases w <;> rw [e, encode]
  · rw [← hi, hw]
  · rw [h0, hm] at hw; rw [hw]
  · rw [← h0, hw]
  · rw [hw]
  · rw [hw]

/-! The word that a well-formed instruction of an operand class encodes has that class. -/

theorem decodeOperand_infnan (sign : BitVec 1) (mf : BitVec 23) :
    decodeOperand (operandWord sign 255 mf) = .convertInfnan sign mf := by
  simp [decodeOperand]

theorem decodeOperand_zero (sign : BitVec 1) : decodeOperand (operandWord sign 0 0) = .convertZero sign := by
  simp [decodeOperand]

theorem decodeOperand_subnormal (sign : BitVec 1) {mf : BitVec 23} (hm : mf ≠ 0) :
    decodeOperand (operandWord sign 0 mf) = .convertSubnormal sign mf := by
  simpa [decodeOperand] using hm

theorem decodeOperand_normalFastint (sign : BitVec 1) {ef : BitVec 8} {mf : BitVec 23} (hf : fastOperand ef mf = true) :
    decodeOperand (operandWord sign ef mf) = .convertNormalFastint sign ef mf := by
  obtain ⟨h0, hi⟩ := exp_ne_of_fastOperand hf
  simp only [decodeOperand, expField_operandWord, mantField_operandWord, signField_operandWord, h0, hi, hf, if_true,
    if_false, false_and]

theorem decodeOperand_normalEngine (sign : BitVec 1) {ef : BitVec 8} {mf : BitVec 23} (h0 : ef ≠ 0) (hi : ef ≠ 255)
    (hf : fastOperand ef mf = false) : decodeOperand (operandWord sign ef mf) = .convertNormalEngine sign ef mf := by
  simp only [decodeOperand, expField_operandWord, mantField_operandWord, signField_operandWord, h0, hi, hf, if_false,
    false_and, Bool.false_eq_true]

/-- Settles O1: an operand word gives back its fields and so its class; each one-byte word is one line of the tables of
R70 and R72. -/
theorem decodeOfEncodeIsTheInstruction : Obligations.DecodeOfEncodeIsTheInstruction := by
  intro i hi
  cases i with
  | convertInfnan sign mf => rw [encode, decodeBytes_bytesOfWord, decodeOperand_infnan]
  | convertZero sign => rw [encode, decodeBytes_bytesOfWord, decodeOperand_zero]
  | convertSubnormal sign mf =>
    rw [encode, decodeBytes_bytesOfWord, decodeOperand_subnormal sign ((wellFormed_subnormal_iff sign mf).mp hi)]
  | convertNormalFastint sign ef mf => rw [encode, decodeBytes_bytesOfWord, decodeOperand_normalFastint sign hi]
  | convertNormalEngine sign ef mf =>
    obtain ⟨h0, h255, hf⟩ := (wellFormed_normalEngine_iff sign ef mf).mp hi
    rw [encode, decodeBytes_bytesOfWord, decodeOperand_normalEngine sign h0 h255 hf]
  | idle | decode | signw | zero | normal | subnormal | fastint | bounds | expk | shifth | lut | mull | mulc | mulr
  | interval | shorter | direct | tie | digits | layout | emit | done | fault => rfl
  | chr0 | chr1 | chr2 | chr3 | chr4 | chr5 | chr6 | chr7 | chr8 | chr9 | chrMinus | chrPlus | chrPoint | chrE => rfl

/-! The one-byte words (R70, R72; log 10). -/

theorem wellFormed_phase_instr (p : Phase) : WellFormed p.instr := by
  cases p <;> rfl

theorem encode_phase_instr (p : Phase) : encode p.instr = [p.code.setWidth 8] := by
  cases p <;> rfl

/-- A code that stands for a phase is that phase's code (R72, R75). -/
theorem code_of_phaseOfCode {c : BitVec 5} {p : Phase} (h : phaseOfCode c = .ok p) : p.code = c := by
  rw [← BitVec.toNat_inj]
  unfold phaseOfCode at h
  split at h <;> cases h <;> exact Eq.symm ‹_›

/-- A PHASE5 word that decodes is the code of the phase whose row it decodes to. -/
theorem decodePhase_ok {c : BitVec 5} {i : Instr} (h : decodePhase c = .ok i) : ∃ p : Phase, i = p.instr ∧ p.code = c := by
  unfold decodePhase at h
  cases hp : phaseOfCode c with
  | error e => rw [hp] at h; cases h
  | ok p =>
    rw [hp] at h
    cases h
    exact ⟨p, rfl, code_of_phaseOfCode hp⟩

/-- The 14 characters with their codes (R70). -/
def characterRows : List (Instr × Byte) :=
  [(.chr0, 0x30), (.chr1, 0x31), (.chr2, 0x32), (.chr3, 0x33), (.chr4, 0x34), (.chr5, 0x35), (.chr6, 0x36),
    (.chr7, 0x37), (.chr8, 0x38), (.chr9, 0x39), (.chrMinus, 0x2D), (.chrPlus, 0x2B), (.chrPoint, 0x2E), (.chrE, 0x65)]

/-- What an ASCII8 word decodes to is the character with that code. -/
theorem mem_characterRows_of_decodeChar {b : Byte} {i : Instr} (h : decodeChar b = .ok i) : (i, b) ∈ characterRows := by
  have hb : b = BitVec.ofNat 8 b.toNat := by simp
  rw [hb]
  unfold decodeChar at h
  generalize b.toNat = n at h ⊢
  split at h <;> cases h <;> decide

theorem reencodes_of_mem_characterRows : ∀ r ∈ characterRows, WellFormed r.1 ∧ encode r.1 = [r.2] := by
  decide

/-- A byte is the encoding of the row it decodes to. -/
theorem decodeByte_reencodes {b : Byte} {i : Instr} (h : decodeByte b = .ok i) : WellFormed i ∧ encode i = [b] := by
  unfold decodeByte at h
  split at h
  next hlt =>
    obtain ⟨p, rfl, hc⟩ := decodePhase_ok h
    have hb : (b.extractLsb' 0 5).setWidth 8 = b := by
      rw [← BitVec.toNat_inj, BitVec.toNat_setWidth_of_le (by decide), BitVec.extractLsb'_toNat]
      exact Nat.mod_eq_of_lt hlt
    exact ⟨wellFormed_phase_instr p, by rw [encode_phase_instr, hc, hb]⟩
  next => exact reencodes_of_mem_characterRows _ (mem_characterRows_of_decodeChar h)

/-- Settles O2: a byte is the code of its row, four bytes are the word of their class's fields. -/
theorem decodedBytesReencode : Obligations.DecodedBytesReencode := by
  intro bs i h
  unfold decodeBytes at h
  split at h
  next b => exact decodeByte_reencodes h
  next b0 b1 b2 b3 =>
    cases h
    exact ⟨wellFormed_decodeOperand _, by rw [encode_decodeOperand, bytesOfWord_wordOfBytes]⟩
  next => cases h

/-- Settles O4: the decoder's five answers with their conditions, the fields as numbers. -/
theorem everyOperandWordHasItsClass : Obligations.EveryOperandWordHasItsClass := by
  intro w
  have hs := signField_toNat w
  have he := expField_toNat w
  have hm := mantField_toNat w
  have hfast := fastOperand_iff (expField w) (mantField w)
  rw [he, hm] at hfast
  obtain ⟨hi, e⟩ | ⟨h0, hm0, e⟩ | ⟨h0, hm0, e⟩ | ⟨hf, e⟩ | ⟨h0, hi, hf, e⟩ := decodeOperand_cases w <;>
    dsimp only <;> rw [e]
  · exact ⟨by rw [← he, hi]; rfl, hs, hm⟩
  · rw [← BitVec.toNat_inj, he] at h0
    rw [← BitVec.toNat_inj, hm] at hm0
    exact ⟨by dsimp at h0 hm0; omega, hs⟩
  · exact ⟨by rw [← he, h0]; rfl, fun h => hm0 (BitVec.toNat_inj.mp (hm.trans h)), hs, hm⟩
  · exact ⟨hfast.mp hf, hs, he, hm⟩
  · exact ⟨fun h => h0 (BitVec.toNat_inj.mp (he.trans h)), fun h => hi (BitVec.toNat_inj.mp (he.trans h)),
      fun h => Bool.false_ne_true (hf.symm.trans (hfast.mpr h)), hs, he, hm⟩

/-- Settles O3: each word is a line of the tables of R70 and R72, or has the fields of its class. -/
theorem specWordsDecode : Obligations.SpecWordsDecode := by
  refine ⟨rfl, rfl, rfl, rfl, rfl, ?_, ?_, rfl, rfl⟩
  · exact decodeOperand_normalFastint 0 (ef := 133) (mf := 0x480000) (by decide)
  · exact decodeOperand_normalEngine 1 (ef := 123) (mf := 0x4CCCCD) (by decide) (by decide) (by decide)

end Sys2Proof.Machine
end

section
/-! The characters: a row's meaning is EMIT's for its byte (R70, R140; log 9). -/

namespace Sys2Proof.Safety

open Sys2Proof.Machine

theorem exec_of_mem_characterRows (s : State) : ∀ r ∈ characterRows, exec r.1 s = .next (emitByte r.2 s) := by
  simp [characterRows]

/-- A byte of 32 or more that decodes is a character, so its row emits it. -/
theorem exec_of_decodeBytes {b : Byte} {i : Instr} (hb : 32 ≤ b.toNat) (h : decodeBytes [b] = .ok i) (s : State) :
    exec i s = .next (emitByte b s) := by
  have hchar : decodeChar b = .ok i := by rwa [decodeBytes, decodeByte, if_neg (by omega)] at h
  exact exec_of_mem_characterRows s _ (mem_characterRows_of_decodeChar hchar)

/-- The byte of the body that EMIT takes next, where its place in TXT exists (R140). -/
theorem bodyByte_eq_of_getElem? {s : State} {b : Byte} (hle : s.sign.toNat ≤ s.pos.toNat)
    (hb : s.txt[s.pos.toNat - s.sign.toNat]? = some b) : s.bodyByte = b := by
  have hidx : s.bodyIndex.toNat = s.pos.toNat - s.sign.toNat := by simp only [State.bodyIndex]; omega
  have hnonneg : 0 ≤ s.bodyIndex := by simp only [State.bodyIndex]; omega
  rw [State.bodyByte, if_pos hnonneg, hidx, hb, Option.getD_some]

/-- Settles O6: EMIT and the row that its byte decodes to both emit that byte. -/
theorem emitStepRunsTheDecodedCharacter : Obligations.EmitStepRunsTheDecodedCharacter := by
  intro s i b p rest hph hh hp hle hb hi h32
  have hbyte : (beginStep p { s with host := rest }).bodyByte = b := bodyByte_eq_of_getElem? hle hb
  calc step s
      = exec s.phase.instr (beginStep p { s with host := rest }) := by rw [step_of_drive hh, blockStep_of_rst_false _ hp]
    _ = .next (ruleEmit (beginStep p { s with host := rest })) := by rw [hph]; exact exec_emit _
    _ = exec i (beginStep p { s with host := rest }) := by rw [ruleEmit, hbyte, exec_of_decodeBytes h32 hi]

/-- Settles O37: the row emits its code, which is one MemWrite at POS. -/
theorem charactersWriteTheirCodes : Obligations.CharactersWriteTheirCodes := by
  intro i b hmem s hpos
  have hfit := fitU_toNat (w := 5) (v := s.pos.toNat + 1) (x := .pos) (s := s) (by omega) (by omega)
  have hread := read?_write_same s.out s.pos.toNat b
  have hother : SameOutExceptAt s.pos.toNat s (memWrite s.pos b s) := fun _ ha => read?_write_other s.out b ha
  refine ⟨emitByte b s, exec_of_mem_characterRows s (i, b) hmem, ?_⟩
  obtain ⟨hlast, e⟩ | ⟨hmore, e⟩ := emitByte_cases b s <;> rw [e]
  · exact ⟨hread, hother, Int.ofNat_inj.mp hfit, (if_pos hlast).symm⟩
  · exact ⟨hread, hother, Int.ofNat_inj.mp hfit, (if_neg hmore).symm⟩

end Sys2Proof.Safety
end

section
/-! The characters and the length of a text (R64, R70, R146). -/

namespace Sys2Proof.Safety

open Sys2Proof.Machine
open Sys2Proof.Machine.Reference (classOf signText body convert decimal trimZeros decimalResult layout)

/-- The byte is one of the 14 characters. -/
def IsCharacter (b : Byte) : Prop := ∃ i, decodeChar b = .ok i

theorem isCharacter_chr {d : ℕ} (h : d < 10) : IsCharacter (chr d) := by
  interval_cases d <;> exact ⟨_, rfl⟩

theorem isCharacter_zero : IsCharacter 0x30 := ⟨.chr0, rfl⟩
theorem isCharacter_minus : IsCharacter 0x2D := ⟨.chrMinus, rfl⟩
theorem isCharacter_plus : IsCharacter 0x2B := ⟨.chrPlus, rfl⟩
theorem isCharacter_point : IsCharacter 0x2E := ⟨.chrPoint, rfl⟩
theorem isCharacter_e : IsCharacter 0x65 := ⟨.chrE, rfl⟩

theorem decimal_legal (v : ℕ) : ∀ b ∈ decimal v, IsCharacter b := by
  intro b hb
  obtain ⟨d, hd, rfl⟩ := List.mem_map.mp hb
  exact isCharacter_chr (Nat.digits_lt_base (by decide) (List.mem_reverse.mp hd))

theorem trimZeros_legal {ds : List Byte} (h : ∀ b ∈ ds, IsCharacter b) : ∀ b ∈ trimZeros ds, IsCharacter b :=
  fun b hb => h b ((trimZeros_isPrefix ds).subset hb)

theorem replicate_zero_legal (n : ℕ) : ∀ b ∈ List.replicate n 0x30, IsCharacter b := by
  intro b hb
  rw [List.eq_of_mem_replicate hb]
  exact isCharacter_zero

/-- "." and the digits after it, where a digit is left (R134, R136). -/
theorem fraction_legal {ds : List Byte} (h : ∀ b ∈ ds, IsCharacter b) (a : ℕ) (P : Prop) [Decidable P] :
    ∀ b ∈ (if P then 0x2E :: ds.drop a else []), IsCharacter b := by
  split
  · exact List.forall_mem_cons.mpr ⟨isCharacter_point, fun b hb => h b (List.mem_of_mem_drop hb)⟩
  · exact List.forall_mem_nil _

/-- The text of a Decimal Result is made of the digits, "0", ".", "e" and a sign (R138). -/
theorem layout_legal (sig : ℕ) (exp : ℤ) : ∀ b ∈ layout sig exp, IsCharacter b := by
  have hds := decimal_legal sig
  have hks := trimZeros_legal hds
  unfold layout
  dsimp only
  split
  next =>
    have hsign : IsCharacter (if 0 ≤ ((decimal sig).length + exp - 1 : ℤ) then 0x2B else 0x2D) := by
      split
      · exact isCharacter_plus
      · exact isCharacter_minus
    simp only [List.forall_mem_append, List.forall_mem_cons]
    exact ⟨⟨⟨fun b hb => hks b (List.mem_of_mem_take hb), fraction_legal hks 1 _⟩, isCharacter_e, hsign,
      List.forall_mem_nil _⟩, decimal_legal _⟩
  next =>
    split
    next => exact List.forall_mem_append.mpr ⟨hds, replicate_zero_legal _⟩
    next =>
      split
      next =>
        exact List.forall_mem_append.mpr ⟨fun b hb => hds b (List.mem_of_mem_take hb), fraction_legal hks _ _⟩
      next =>
        simp only [List.forall_mem_append, List.forall_mem_cons]
        exact ⟨⟨⟨isCharacter_zero, isCharacter_point, List.forall_mem_nil _⟩, replicate_zero_legal _⟩, hks⟩

theorem signText_legal (w : Word) : ∀ b ∈ signText w, IsCharacter b := by
  unfold signText
  split
  · exact List.forall_mem_singleton.mpr isCharacter_minus
  · exact List.forall_mem_nil _

theorem body_legal (w : Word) : ∀ b ∈ body w, IsCharacter b := by
  unfold body
  split
  · exact List.forall_mem_singleton.mpr isCharacter_zero
  · exact layout_legal _ _

/-- Settles O45: an infinity or NaN has no text; every other text is at most one sign and a body of 1 to 21 bytes. -/
theorem textsHaveLegalLengthAndCharacters : Obligations.TextsHaveLegalLengthAndCharacters := by
  intro w
  by_cases hi : classOf w = .infnan
  · rw [show convert w = [] from if_pos hi]
    exact ⟨by decide, by simp [hi], List.forall_mem_nil _⟩
  · have hb := body_length hi
    have hs := signText_length w
    have hlt := (signField w).isLt
    rw [convert_of_not_infnan hi, List.length_append]
    exact ⟨by omega, iff_of_false (by omega) hi, List.forall_mem_append.mpr ⟨signText_legal w, body_legal w⟩⟩

end Sys2Proof.Safety
end

section
/-! The phase graph (R74): the phase each rule leaves. -/

namespace Sys2Proof.Safety

open Sys2Proof.Machine

/-- The condition `fast` as NORMAL tests it, on the fields (R62, R84). -/
theorem isFast_normal_iff (ef : BitVec 8) (mf : BitVec 23) :
    isFast (normalC mf) (normalQ ef) = true ↔
      127 ≤ ef.toNat ∧ ef.toNat ≤ 150 ∧ (2 ^ 23 + mf.toNat) % 2 ^ (150 - ef.toNat) = 0 := by
  have hshift : (-normalQ ef).toNat = 150 - ef.toNat := by rw [normalQ_eq]; omega
  have hrange : normalQ ef ≤ 0 ∧ -(mantBits : Int) ≤ normalQ ef ↔ 127 ≤ ef.toNat ∧ ef.toNat ≤ 150 := by
    rw [normalQ_eq, mantBits]; omega
  simp only [isFast, Bool.and_eq_true, decide_eq_true_eq, beq_iff_eq, hshift, hrange, normalC, and_assoc]

theorem shorterLow_eq_shorterHigh_iff (lower upper sp : ℕ) :
    shorterLow lower sp = shorterHigh upper sp ↔ (lower ≤ 40 * sp ↔ 40 * sp + 40 ≤ upper) := by
  simp [shorterLow, shorterHigh]

theorem directLow_eq_directHigh_iff (lower upper s : ℕ) :
    directLow lower s = directHigh upper s ↔ (lower ≤ 4 * s ↔ 4 * s + 4 ≤ upper) := by
  simp [directLow, directHigh]

theorem ruleDigits_phase (s : State) : (ruleDigits s).phase = .layout := by
  unfold ruleDigits
  split <;> rfl

/-- Each rule leaves the phase that the graph names for the ports the step has. -/
theorem phaseRule_phase {p : Ports} {s : State} (hp : p.rst = false) (hs : s.start = p.start) :
    (phaseRule s).phase = successor p s := by
  unfold phaseRule successor
  rw [hp, if_neg Bool.false_ne_true]
  cases hph : s.phase with
  | idle | done =>
    obtain ⟨h, e⟩ | ⟨h, e⟩ := handshake_cases s <;> dsimp only [ruleIdle, ruleDone] <;> rw [e, ← hs, h]
    · rfl
    · exact hph
  | decode =>
    have hexp : expField s.raw = 255 ↔ s.raw.toNat / 2 ^ 23 % 256 = 255 := by
      rw [← BitVec.toNat_inj, expField_toNat]; rfl
    obtain ⟨h, e⟩ | ⟨h, e⟩ := ruleDecode_cases s <;> dsimp only <;> rw [e]
    · exact (if_pos (hexp.mp h)).symm
    · exact (if_neg (hexp.not.mp h)).symm
  | signw => simp [ruleSignw_phase, isZero, isNormal]
  | normal => simp only [ruleNormal, isFast_normal_iff]
  | lut =>
    obtain ⟨h, e⟩ | ⟨-, -, h, e⟩ | ⟨hk0, hk1, hh0, hh1, e⟩ := ruleLut_cases s <;> dsimp only <;> rw [e]
    · exact (if_neg (by omega)).symm
    · exact (if_neg (by omega)).symm
    · exact (if_pos ⟨hk0, hk1, hh0, hh1⟩).symm
  | shorter =>
    obtain ⟨h, e⟩ | ⟨h, e⟩ := ruleShorter_cases s <;> dsimp only <;> rw [e]
    · exact (if_neg ((shorterLow_eq_shorterHigh_iff _ _ _).not.mp h)).symm
    · exact (if_pos ((shorterLow_eq_shorterHigh_iff _ _ _).mp h)).symm
  | direct =>
    obtain ⟨h, e⟩ | ⟨h, e⟩ := ruleDirect_cases s <;> dsimp only <;> rw [e]
    · exact (if_neg ((directLow_eq_directHigh_iff _ _ _).not.mp h)).symm
    · exact (if_pos ((directLow_eq_directHigh_iff _ _ _).mp h)).symm
  | digits => exact ruleDigits_phase s
  | emit =>
    obtain ⟨h, e⟩ | ⟨h, e⟩ := emitByte_cases s.bodyByte s <;> dsimp only [ruleEmit] <;> rw [e]
    · exact (if_pos h).symm
    · exact (if_neg h).symm
  | zero | subnormal | fastint | bounds | expk | shifth | mull | mulc | mulr | interval | tie | layout => rfl
  | fault => exact hph

/-- Settles O53: reset leads to IDLE from every phase, else the phase rule leads along the graph. -/
theorem stepsFollowThePhaseGraph : Obligations.StepsFollowThePhaseGraph := by
  intro p s
  refine ⟨_, blockStep_eq p s, ?_⟩
  by_cases hr : p.rst = true
  · rw [if_pos hr, successor, if_pos hr]
    exact resetStep_phase _
  · rw [if_neg hr]
    exact phaseRule_phase (s := beginStep p s) (by simpa using hr) rfl

end Sys2Proof.Safety
end

section
/-! The driver's rules (R80 to R86): the handshake, DECODE, SIGNW, ZERO, the assembly of C and Q, FASTINT. -/

namespace Sys2Proof.Safety

open Sys2Proof.Machine

/-! START outside IDLE and DONE (R80). -/

/-- The state with other levels on the ports of a request. -/
def withRequest (a : Bool) (b : Word) (s : State) : State := { s with start := a, inBits := b }

section

variable (a : Bool) (b : Word) (s : State)

/-! The values the rules write do not depend on the ports. -/

theorem free_withRequest (w : ℕ) (x : OpenValue) : (withRequest a b s).free w x = s.free w x := rfl

theorem fitU_withRequest (w : ℕ) (v : ℤ) (x : OpenValue) : fitU w v x (withRequest a b s) = fitU w v x s := rfl

theorem fitS_withRequest (w : ℕ) (v : ℤ) (x : OpenValue) : fitS w v x (withRequest a b s) = fitS w v x s := rfl

theorem scaled_withRequest (cx : BitVec 26) : scaled (withRequest a b s) cx = scaled s cx := rfl

theorem bodyIndex_withRequest : (withRequest a b s).bodyIndex = s.bodyIndex := rfl

theorem bodyByte_withRequest : (withRequest a b s).bodyByte = s.bodyByte := rfl

/-! The rules whose two sides do not agree by unfolding alone. -/

theorem ruleDecode_withRequest : ruleDecode (withRequest a b s) = withRequest a b (ruleDecode s) := by
  simp only [ruleDecode, apply_ite (withRequest a b)]
  rfl

theorem ruleSignw_withRequest : ruleSignw (withRequest a b s) = withRequest a b (ruleSignw s) := by
  have hsign : (withRequest a b s).sign = s.sign := rfl
  by_cases h : s.sign = 1
  · simp only [ruleSignw, hsign, if_pos h]; rfl
  · simp only [ruleSignw, hsign, if_neg h]; rfl

theorem ruleBounds_withRequest : ruleBounds (withRequest a b s) = withRequest a b (ruleBounds s) := by
  simp only [ruleBounds, fitU_withRequest]
  simp only [withRequest]
  rfl

theorem ruleLut_withRequest : ruleLut (withRequest a b s) = withRequest a b (ruleLut s) := by
  simp only [ruleLut, apply_ite (withRequest a b)]
  simp only [withRequest, raiseContractFault]
  rfl

theorem ruleMull_withRequest : ruleMull (withRequest a b s) = withRequest a b (ruleMull s) := by
  simp only [ruleMull, fitU_withRequest, scaled_withRequest]
  simp only [withRequest]

theorem ruleMulc_withRequest : ruleMulc (withRequest a b s) = withRequest a b (ruleMulc s) := by
  simp only [ruleMulc, fitU_withRequest, scaled_withRequest]
  simp only [withRequest]

theorem ruleMulr_withRequest : ruleMulr (withRequest a b s) = withRequest a b (ruleMulr s) := by
  simp only [ruleMulr, fitU_withRequest, scaled_withRequest]
  simp only [withRequest]

theorem ruleInterval_withRequest : ruleInterval (withRequest a b s) = withRequest a b (ruleInterval s) := by
  simp only [ruleInterval, fitU_withRequest]
  simp only [withRequest]

theorem ruleShorter_withRequest : ruleShorter (withRequest a b s) = withRequest a b (ruleShorter s) := by
  simp only [ruleShorter, fitU_withRequest, fitS_withRequest, apply_ite (withRequest a b)]
  simp only [withRequest]
  rfl

theorem ruleDirect_withRequest : ruleDirect (withRequest a b s) = withRequest a b (ruleDirect s) := by
  simp only [ruleDirect, fitU_withRequest, apply_ite (withRequest a b)]
  simp only [withRequest]
  rfl

theorem ruleTie_withRequest : ruleTie (withRequest a b s) = withRequest a b (ruleTie s) := by
  simp only [ruleTie, fitU_withRequest]
  simp only [withRequest]

theorem ruleDigits_withRequest : ruleDigits (withRequest a b s) = withRequest a b (ruleDigits s) := by
  simp only [ruleDigits, free_withRequest, apply_ite (withRequest a b)]
  simp only [withRequest]
  rfl

theorem ruleEmit_withRequest : ruleEmit (withRequest a b s) = withRequest a b (ruleEmit s) := by
  simp only [ruleEmit, emitByte, bodyByte_withRequest, bodyIndex_withRequest, fitU_withRequest,
    apply_ite (withRequest a b)]
  rfl

/-- While a conversion runs, and in FAULT, no meaning of a phase reads `start` or `in_bits`. -/
theorem exec_withRequest {p : Phase} (hi : p ≠ .idle) (hd : p ≠ .done) :
    ∃ t, exec p.instr s = .next t ∧ exec p.instr (withRequest a b s) = .next (withRequest a b t) := by
  cases p with
  | idle => exact absurd rfl hi
  | done => exact absurd rfl hd
  | decode => exact ⟨_, exec_decode s, congrArg Host.Outcome.next (ruleDecode_withRequest a b s)⟩
  | signw => exact ⟨_, exec_signw s, congrArg Host.Outcome.next (ruleSignw_withRequest a b s)⟩
  | bounds => exact ⟨_, exec_bounds s, congrArg Host.Outcome.next (ruleBounds_withRequest a b s)⟩
  | lut => exact ⟨_, exec_lut s, congrArg Host.Outcome.next (ruleLut_withRequest a b s)⟩
  | mull => exact ⟨_, exec_mull s, congrArg Host.Outcome.next (ruleMull_withRequest a b s)⟩
  | mulc => exact ⟨_, exec_mulc s, congrArg Host.Outcome.next (ruleMulc_withRequest a b s)⟩
  | mulr => exact ⟨_, exec_mulr s, congrArg Host.Outcome.next (ruleMulr_withRequest a b s)⟩
  | interval => exact ⟨_, exec_interval s, congrArg Host.Outcome.next (ruleInterval_withRequest a b s)⟩
  | shorter => exact ⟨_, exec_shorter s, congrArg Host.Outcome.next (ruleShorter_withRequest a b s)⟩
  | direct => exact ⟨_, exec_direct s, congrArg Host.Outcome.next (ruleDirect_withRequest a b s)⟩
  | tie => exact ⟨_, exec_tie s, congrArg Host.Outcome.next (ruleTie_withRequest a b s)⟩
  | digits => exact ⟨_, exec_digits s, congrArg Host.Outcome.next (ruleDigits_withRequest a b s)⟩
  | emit => exact ⟨_, exec_emit s, congrArg Host.Outcome.next (ruleEmit_withRequest a b s)⟩
  | zero | normal | subnormal | fastint | expk | shifth | layout | fault => exact ⟨_, rfl, rfl⟩

end

theorem handshake_of_start {s : State} (h : s.start = true) :
    handshake s = { s with raw := s.inBits, pos := 0, len := 0, phase := .decode } := if_pos h

theorem handshake_of_no_start {s : State} (h : s.start = false) : handshake s = s :=
  if_neg (by simp [h])

/-- Settles O7: the handshake in IDLE and DONE, and a rule that does not read the ports elsewhere. -/
theorem startTakesTheOperandOnlyWhenReady : Obligations.StartTakesTheOperandOnlyWhenReady := by
  refine ⟨fun s h => ?_, fun s h => ?_, fun p s t a b hi hd ht => ?_⟩
  · rw [exec_idle, exec_done, ruleIdle, ruleDone, handshake_of_start h]
    exact ⟨rfl, rfl⟩
  · rw [exec_idle, exec_done, ruleIdle, ruleDone, handshake_of_no_start h]
    exact ⟨rfl, rfl⟩
  · obtain ⟨t', e, e'⟩ := exec_withRequest a b s hi hd
    rw [e] at ht
    cases ht
    exact e'

/-! One conversion's operand: DECODE to FASTINT. -/

/-- DECODE's test on the bits of RAW (R81). -/
theorem expField_eq_255_iff (w : Word) : expField w = 255 ↔ w.toNat / 2 ^ 23 % 256 = 255 := by
  rw [← BitVec.toNat_inj, expField_toNat]
  rfl

/-- Settles O8: DECODE's two outcomes, and the fields of RAW as numbers. -/
theorem decodeExtractsFieldsOrEndsUnsupported : Obligations.DecodeExtractsFieldsOrEndsUnsupported := by
  intro s
  have hexp := expField_eq_255_iff s.raw
  refine ⟨ruleDecode s, exec_decode s, ?_⟩
  obtain ⟨h, e⟩ | ⟨h, e⟩ := ruleDecode_cases s <;> rw [e] <;>
    refine ⟨signField_toNat s.raw, expField_toNat s.raw, mantField_toNat s.raw, ?_, fun _ => rfl⟩
  · exact (if_pos (hexp.mp h)).symm
  · exact (if_neg (hexp.not.mp h)).symm

/-- R82's dispatch. -/
theorem ruleSignw_dispatch (s : State) :
    (ruleSignw s).phase = if s.ef = 0 ∧ s.mf = 0 then .zero else if s.ef ≠ 0 then .normal else .subnormal := by
  simp [ruleSignw_phase, isZero, isNormal]

/-- Settles O9: the "-" is one MemWrite at POS; the dispatch does not depend on it. -/
theorem signwWritesMinusAndDispatches : Obligations.SignwWritesMinusAndDispatches := by
  intro s hpos
  have hph := ruleSignw_dispatch s
  have hfit := fitU_toNat (w := 5) (v := s.pos.toNat + 1) (x := .pos) (s := s) (by omega) (by omega)
  obtain ⟨p, -, ⟨h, e⟩ | ⟨h, e⟩⟩ := ruleSignw_cases s <;> rw [e] at hph <;> dsimp only at hph <;> subst hph
  · refine ⟨fun _ => ⟨_, congrArg Host.Outcome.next e, read?_write_same s.out _ _, ?_, Int.ofNat_inj.mp hfit, rfl⟩,
      fun h0 => absurd (h.symm.trans h0) (by decide)⟩
    exact fun _ ha => read?_write_other s.out _ ha
  · exact ⟨fun h1 => absurd h1 h, fun _ => ⟨_, congrArg Host.Outcome.next e, rfl, fun _ => rfl⟩⟩

/-- Settles O10: the staged text is the one character. -/
theorem zeroStagesOneZero : Obligations.ZeroStagesOneZero := by
  intro s
  have htxt : (storeText s.txt [chrZeroCode])[0]? = [chrZeroCode][0]? := storeText_getElem? s.txt (by decide) (by decide)
  exact ⟨ruleZero s, exec_zero s, htxt, rfl, rfl, fun _ => rfl⟩

/-- R84: C takes the mantissa with the implicit bit. -/
theorem ruleNormal_c (s : State) : (ruleNormal s).c.toNat = normalC s.mf := by
  have hm := s.mf.isLt
  simp only [ruleNormal, BitVec.toNat_ofNat, normalC, mantBits]
  omega

/-- R84: Q takes the unbiased exponent. -/
theorem ruleNormal_q (s : State) : (ruleNormal s).q.toInt = normalQ s.ef := by
  have he := s.ef.isLt
  simp only [ruleNormal, BitVec.toInt_ofInt, normalQ_eq]
  exact Int.bmod_eq_of_le (by omega) (by omega)

/-- R84's test on C and Q. -/
theorem isFast_iff (c : ℕ) (q : ℤ) : isFast c q = true ↔ q ≤ 0 ∧ -23 ≤ q ∧ c % 2 ^ (-q).toNat = 0 := by
  simp [isFast, and_assoc]

/-- C and Q fit their registers, so the test on the registers is the one on the values being written. -/
theorem ruleNormal_phase (s : State) :
    (ruleNormal s).phase =
      if (ruleNormal s).q.toInt ≤ 0 ∧ -23 ≤ (ruleNormal s).q.toInt ∧
        (ruleNormal s).c.toNat % 2 ^ (-(ruleNormal s).q.toInt).toNat = 0 then .fastint else .bounds := by
  rw [ruleNormal_q, ruleNormal_c]
  exact if_congr (isFast_iff _ _) rfl rfl

/-- Settles O11: the phase is chosen by the test on the registers written. -/
theorem normalAssemblesAndTestsFastPath : Obligations.NormalAssemblesAndTestsFastPath := by
  intro s
  refine ⟨ruleNormal s, exec_normal s, ruleNormal_c s, (ruleNormal_q s).trans (normalQ_eq s.ef), ?_, fun _ => rfl⟩
  rw [← ruleNormal_phase]
  rfl

/-- Settles O12: the mantissa field fits C, and Q is a constant. -/
theorem subnormalAssembles : Obligations.SubnormalAssembles :=
  fun s => ⟨_, exec_subnormal s, BitVec.toNat_setWidth_of_le (by decide), rfl, rfl, fun _ => rfl⟩

/-- Settles O13: C >> (-Q) is at most C, so it fits SIG. -/
theorem fastintShiftsTheSignificand : Obligations.FastintShiftsTheSignificand := by
  intro s _ hq
  have hc := s.c.isLt
  have hdiv := Nat.div_le_self s.c.toNat (2 ^ (-s.q.toInt).toNat)
  refine ⟨_, exec_fastint s, ?_, rfl, rfl, fun _ => rfl⟩
  simp only [ruleFastint, if_pos hq]
  exact Nat.mod_eq_of_lt (by omega)

end Sys2Proof.Safety
end

section
/-! CONVERT at its edges: the class of a word selects no other transaction, a request outside IDLE and DONE is lost
(R62, R80, R188), and the text of a negative operand (R91). -/

namespace Sys2Proof.Safety

open Sys2Proof.Machine
open Sys2Proof.Machine.Reference (classOf operandC operandQ operandIrr operandFast signText body decimalResult)

/-- The instruction of a word's class converts that word. -/
theorem exec_decodeOperand_eq (w : Word) (s : State) : exec (decodeOperand w) s = .next (convertWord w s) := by
  have hw := operandWord_fields w
  obtain ⟨hi, e⟩ | ⟨h0, hm, e⟩ | ⟨h0, -, e⟩ | ⟨-, e⟩ | ⟨-, -, -, e⟩ := decodeOperand_cases w <;> rw [e]
  · rw [hi] at hw; exact congrArg (fun v => Host.Outcome.next (convertWord v s)) hw
  · rw [h0, hm] at hw; exact congrArg (fun v => Host.Outcome.next (convertWord v s)) hw
  · rw [h0] at hw; exact congrArg (fun v => Host.Outcome.next (convertWord v s)) hw
  · exact congrArg (fun v => Host.Outcome.next (convertWord v s)) hw
  · exact congrArg (fun v => Host.Outcome.next (convertWord v s)) hw

/-- Settles O44: the rule of the current phase reads neither `start` nor `in_bits`, so both steps end in the state of the
other but for the port. -/
theorem convertWhileNotReadyIsIgnored : Obligations.ConvertWhileNotReadyIsIgnored := by
  intro w s hr
  have hnot := (ready_iff s).not.mp (by simp [hr])
  rw [not_or] at hnot
  obtain ⟨hi, hd⟩ := hnot
  have hreq : exec s.phase.instr (beginStep ⟨false, true, w⟩ s) = .next (requestStep w s) :=
    exec_phase_instr (beginStep ⟨false, true, w⟩ s)
  obtain ⟨t, ht, hsame⟩ := exec_withRequest true w (beginStep ⟨false, true, w⟩ s) hi hd
  obtain ⟨t', ht', hlow⟩ := exec_withRequest false w (beginStep ⟨false, true, w⟩ s) hi hd
  obtain rfl : requestStep w s = t := Host.Outcome.next.inj (hreq.symm.trans ht)
  obtain rfl : requestStep w s = t' := Host.Outcome.next.inj (hreq.symm.trans ht')
  refine ⟨requestStep w s, withRequest false w (requestStep w s), ?_, hlow, ?_⟩
  · rw [exec_decodeOperand_eq, convertWord, if_neg (by simp [hr])]
  · exact Host.Outcome.next.inj (hreq.symm.trans hsame)

/-- The body of a text does not depend on the sign (R90). -/
theorem body_operandWord (sign sign' : BitVec 1) (ef : BitVec 8) (mf : BitVec 23) :
    body (operandWord sign ef mf) = body (operandWord sign' ef mf) := by
  simp only [body, classOf, decimalResult, operandC, operandQ, operandIrr, operandFast, expField_operandWord,
    mantField_operandWord]

/-- Settles O46: the two texts have the same body, and only the negative one has a sign character. -/
theorem negativeOperandsOnlyAddTheMinus : Obligations.NegativeOperandsOnlyAddTheMinus := by
  intro ef mf hef
  have hclass (sign : BitVec 1) : classOf (operandWord sign ef mf) ≠ .infnan := by
    rwa [Ne, classOf_eq_infnan_iff, expField_operandWord]
  rw [convert_of_not_infnan (hclass 1), convert_of_not_infnan (hclass 0), body_operandWord 1 0]
  simp [signText]

end Sys2Proof.Safety
end

section
/-! CONVERT as a run of quiet steps (R76, R90): what each of its states meets, and the induction over them. -/

namespace Sys2Proof.Safety

open Sys2Proof.Machine
open Sys2Proof.Machine.Reference (classOf)

variable {s u : State} {w : Word}

/-! A quiet step. -/

theorem blockStep_quiet (s : State) : blockStep (Ports.quiet s) s = .next (quietStep s) := blockStep_eq (Ports.quiet s) s

/-- A quiet step runs the instruction of its phase. -/
theorem next_quietStep {p : Phase} (hp : s.phase = p) :
    .next (quietStep s) = exec p.instr (beginStep (Ports.quiet s) s) := by
  rw [← hp]
  exact (exec_phase_instr (beginStep (Ports.quiet s) s)).symm

theorem quietStep_phase (s : State) : (quietStep s).phase = successor (Ports.quiet s) s :=
  phaseRule_phase (s := beginStep (Ports.quiet s) s) rfl rfl

theorem phaseInv_quietStep (h : PhaseInv s) : PhaseInv (quietStep s) :=
  phaseInv_phaseRule (phaseInv_beginStep (Ports.quiet s) h)

/-- Only a START step takes an operand. -/
theorem quietStep_raw (s : State) : (quietStep s).raw = s.raw := by
  obtain ⟨hraw, -⟩ := registersChangeOnlyInTheirPhases (Ports.quiet s) s _ rfl (blockStep_quiet s)
  by_contra hne
  exact Bool.false_ne_true (hraw hne).2

/-- Without reset IDLE follows no phase but itself (R74). -/
theorem phase_of_successor_idle {p : Ports} (hp : p.rst = false) (h : successor p s = .idle) : s.phase = .idle := by
  unfold successor at h
  rw [hp, if_neg Bool.false_ne_true] at h
  cases hph : s.phase <;> rw [hph] at h
  case decode | signw | normal | lut | shorter | direct | emit | done => dsimp only at h; split_ifs at h
  all_goals cases h

/-- A conversion that is busy becomes done in DECODE, when its operand is unsupported, or in EMIT (R74). -/
theorem phase_of_successor_done {p : Ports} (hp : p.rst = false) (hb : s.busy = true) (h : successor p s = .done) :
    (s.phase = .decode ∧ s.raw.toNat / 2 ^ 23 % 256 = 255) ∨ s.phase = .emit := by
  obtain ⟨-, hnd, -⟩ := (busy_iff s).mp hb
  unfold successor at h
  rw [hp, if_neg Bool.false_ne_true] at h
  cases hph : s.phase <;> rw [hph] at h
  case emit => exact .inr rfl
  case done => exact absurd hph hnd
  case decode =>
    dsimp only at h
    split_ifs at h with hi
    exact .inl ⟨rfl, hi⟩
  case idle | signw | normal | lut | shorter | direct => dsimp only at h; split_ifs at h
  all_goals cases h

/-- DECODE's test is that of the unsupported class (R62, R81). -/
theorem classOf_eq_infnan_iff_toNat (w : Word) : classOf w = .infnan ↔ w.toNat / 2 ^ 23 % 256 = 255 := by
  rw [classOf_eq_infnan_iff, expField_eq_255_iff]

/-! The states of a conversion. -/

/-- A state of a conversion of `w`, from the one its START step leaves to DONE. -/
structure Converting (w : Word) (s : State) : Prop where
  raw : s.raw = w
  inv : PhaseInv s
  not_idle : s.phase ≠ .idle

theorem requestStep_of_ready (w : Word) (h : s.ready = true) :
    requestStep w s = { beginStep ⟨false, true, w⟩ s with raw := w, pos := 0, len := 0, phase := .decode } := by
  unfold requestStep phaseRule
  rw [beginStep_phase]
  obtain hp | hp := (ready_iff s).mp h <;> rw [hp] <;> exact handshake_of_start rfl

theorem converting_requestStep (w : Word) (h : s.ready = true) : Converting w (requestStep w s) := by
  rw [requestStep_of_ready w h]
  exact ⟨rfl, ⟨rfl, rfl⟩, (by decide : Phase.decode ≠ Phase.idle)⟩

theorem Converting.quietStep (h : Converting w s) : Converting w (quietStep s) where
  raw := (quietStep_raw s).trans h.raw
  inv := phaseInv_quietStep h.inv
  not_idle hi := h.not_idle (phase_of_successor_idle rfl ((quietStep_phase s).symm.trans hi))

/-- A conversion that is not busy is done. -/
theorem Converting.phase_eq_done (h : Converting w s) (hb : s.busy = false) : s.phase = .done := by
  have hinv := h.inv
  by_contra hd
  refine Bool.false_ne_true (hb.symm.trans ((busy_iff s).mpr ⟨h.not_idle, hd, fun hf => ?_⟩))
  rwa [PhaseInv, hf] at hinv

/-- What the START step establishes and every step of the conversion keeps holds at its end. -/
theorem convertWord_induction {P : State → Prop} (hr : s.ready = true) (h0 : P (requestStep w s))
    (hstep : ∀ u, Converting w u → u.busy = true → P u → P (quietStep u)) : P (convertWord w s) := by
  have hrun (fuel : ℕ) : ∀ u, Converting w u → P u → P (runWhileBusy fuel u) := by
    induction fuel with
    | zero => exact fun _ _ h => h
    | succ fuel ih =>
      intro u hu h
      unfold runWhileBusy
      split
      next hb => exact ih _ hu.quietStep (hstep u hu hb h)
      next => exact h
  rw [convertWord, if_pos hr]
  exact hrun _ _ (converting_requestStep w hr) h0

theorem converting_convertWord (w : Word) (hr : s.ready = true) : Converting w (convertWord w s) :=
  convertWord_induction hr (converting_requestStep w hr) fun _ _ _ h => h.quietStep

end Sys2Proof.Safety
end

section
/-! The steps of a conversion (R191): each quiet step while the block is busy is one step less to DONE. -/

namespace Sys2Proof.Safety

open Sys2Proof.Machine
open Sys2Proof.Machine.Reference (classOf convert body signText operandC operandQ operandIrr operandFast trace steps)

variable {s : State} {w : Word}

/-! R191's table. -/

theorem steps_of_infnan (h : classOf w = .infnan) : steps w = 2 := by
  simp only [steps, h]

theorem steps_of_zero (h : classOf w = .zero) : steps w = 5 := by
  simp only [steps, h]

/-- An operand that is neither zero nor unsupported takes the fast path or the engine. -/
theorem classOf_of_operand (hz : classOf w ≠ .zero) (hi : classOf w ≠ .infnan) :
    (operandFast w = true ∧ classOf w = .normalFastint) ∨
      (operandFast w = false ∧ (classOf w = .subnormal ∨ classOf w = .normalEngine)) := by
  have hsub := @operandFast_of_subnormal w
  unfold classOf at hz hi ⊢
  split_ifs at hz hi ⊢ with h1 h2 h3 h4
  · exact absurd rfl hi
  · exact absurd rfl hz
  · exact .inr ⟨hsub h3, .inl rfl⟩
  · exact .inl ⟨h4, rfl⟩
  · exact .inr ⟨by simpa using h4, .inr rfl⟩

theorem steps_of_fast (hz : classOf w ≠ .zero) (hi : classOf w ≠ .infnan) (hf : operandFast w = true) :
    steps w = 7 + (body w).length := by
  obtain ⟨-, hc⟩ | ⟨hs, -⟩ := classOf_of_operand hz hi
  · simp only [steps, hc]
  · exact absurd (hf.symm.trans hs) (by decide)

/-- In the engine the path ends in SHORTER, DIRECT or TIE. -/
theorem steps_of_engine (hz : classOf w ≠ .zero) (hi : classOf w ≠ .infnan) (hf : operandFast w = false) :
    let t := trace (operandC w) (operandQ w) (operandIrr w)
    steps w =
      (if decide (t.lower ≤ 40 * (t.s / 10)) ≠ decide (40 * (t.s / 10) + 40 ≤ t.upper) then 15
        else if decide (t.lower ≤ 4 * t.s) ≠ decide (4 * t.s + 4 ≤ t.upper) then 16
        else 17) + (body w).length := by
  have hsum (P Q : Prop) [Decidable P] [Decidable Q] (n : ℕ) :
      (if P then 15 + n else if Q then 16 + n else 17 + n) = (if P then 15 else if Q then 16 else 17) + n := by
    split_ifs <;> rfl
  obtain ⟨hs, -⟩ | ⟨-, hc | hc⟩ := classOf_of_operand hz hi
  · exact absurd (hs.symm.trans hf) (by decide)
  · simp only [steps, hc]; exact hsum _ _ _
  · simp only [steps, hc]; exact hsum _ _ _

theorem steps_of_engine_range (hz : classOf w ≠ .zero) (hi : classOf w ≠ .infnan) (hf : operandFast w = false) :
    15 + (body w).length ≤ steps w ∧ steps w ≤ 17 + (body w).length := by
  rw [steps_of_engine hz hi hf]
  split_ifs <;> omega

/-- A supported operand takes at least the five steps of a zero, and no operand more than 38 (R90). -/
theorem steps_range (w : Word) : (classOf w ≠ .infnan → 5 ≤ steps w) ∧ 2 ≤ steps w ∧ steps w ≤ 38 := by
  by_cases hi : classOf w = .infnan
  · rw [steps_of_infnan hi]
    exact ⟨absurd hi, by decide⟩
  by_cases hz : classOf w = .zero
  · rw [steps_of_zero hz]
    exact ⟨fun _ => le_rfl, by decide⟩
  have hb := body_length hi
  cases hf : operandFast w
  · have h := steps_of_engine_range hz hi hf
    omega
  · rw [steps_of_fast hz hi hf]
    omega

theorem InEngine.steps_range (h : InEngine s) : 16 ≤ steps s.raw := by
  obtain ⟨⟨hsg, hz, -⟩, hf⟩ := h
  have hb := body_length hsg.not_infnan
  have hs := steps_of_engine_range hz hsg.not_infnan hf
  omega

theorem InEngine.steps_of_shorter (h : InEngine s) (hs : ¬ NotShorter s) : steps s.raw = 15 + (body s.raw).length := by
  obtain ⟨⟨hsg, hz, -⟩, hf⟩ := h
  exact (steps_of_engine hz hsg.not_infnan hf).trans (congrArg (· + _) (if_pos hs))

theorem InEngine.steps_of_direct (h : InEngine s) (hs : NotShorter s) (hd : ¬ NotDirect s) :
    steps s.raw = 16 + (body s.raw).length := by
  obtain ⟨⟨hsg, hz, -⟩, hf⟩ := h
  exact (steps_of_engine hz hsg.not_infnan hf).trans
    (congrArg (· + _) ((if_neg (not_not.mpr hs)).trans (if_pos hd)))

theorem InEngine.steps_of_tie (h : InEngine s) (hs : NotShorter s) (hd : NotDirect s) :
    steps s.raw = 17 + (body s.raw).length := by
  obtain ⟨⟨hsg, hz, -⟩, hf⟩ := h
  exact (steps_of_engine hz hsg.not_infnan hf).trans
    (congrArg (· + _) ((if_neg (not_not.mpr hs)).trans (if_neg (not_not.mpr hd))))

/-! The steps that are left. -/

/-- The quiet steps from a state of a conversion to DONE. -/
def stepsLeft (s : State) : ℕ :=
  match s.phase with
  | .decode => steps s.raw - 1
  | .signw => steps s.raw - 2
  | .zero | .normal | .subnormal => steps s.raw - 3
  | .fastint | .bounds => steps s.raw - 4
  | .expk => steps s.raw - 5
  | .shifth => steps s.raw - 6
  | .lut => steps s.raw - 7
  | .mull => steps s.raw - 8
  | .mulc => steps s.raw - 9
  | .mulr => steps s.raw - 10
  | .interval => steps s.raw - 11
  | .shorter => steps s.raw - 12
  | .direct => steps s.raw - 13
  | .tie => steps s.raw - 14
  | .digits => (body s.raw).length + 2
  | .layout => (body s.raw).length + 1
  | .emit => (convert s.raw).length - s.pos.toNat
  | .idle | .done | .fault => 0

theorem convert_length (hi : classOf w ≠ .infnan) : (convert w).length = (signText w).length + (body w).length := by
  rw [convert_of_not_infnan hi, List.length_append]

theorem quietStep_of_emit (hp : s.phase = .emit) : quietStep s = ruleEmit (beginStep (Ports.quiet s) s) :=
  Host.Outcome.next.inj (next_quietStep hp)

theorem emitting_of_phase (h : PhaseInv s) (hp : s.phase = .emit) : Emitting s := by
  rwa [PhaseInv, hp] at h

/-- EMIT advances POS (R140). -/
theorem quietStep_pos_of_emit (h : Emitting s) (hp : s.phase = .emit) : (quietStep s).pos.toNat = s.pos.toNat + 1 := by
  obtain ⟨hlen, -⟩ := textsHaveLegalLengthAndCharacters s.raw
  obtain ⟨-, -, -, -, -, -, -, hlt, -⟩ := h
  have hfit := fitU_toNat (w := 5) (v := s.pos.toNat + 1) (x := .pos) (s := beginStep (Ports.quiet s) s)
    (by omega) (by omega)
  rw [quietStep_of_emit hp, ruleEmit]
  obtain ⟨-, e⟩ | ⟨-, e⟩ := emitByte_cases (beginStep (Ports.quiet s) s).bodyByte (beginStep (Ports.quiet s) s) <;> rw [e]
  · exact Int.ofNat_inj.mp hfit
  · exact Int.ofNat_inj.mp hfit

/-- The phases 7 to 17 (R72) run for an operand of the engine. -/
theorem inEngine_of_phase (h : PhaseInv s) (h0 : 7 ≤ s.phase.code.toNat) (h1 : s.phase.code.toNat ≤ 17) : InEngine s := by
  unfold PhaseInv at h
  cases hp : s.phase <;> rw [hp] at h h0 h1
  case bounds => exact h
  case expk => exact Bounded.inEngine h
  case shifth => exact (Exponented.bounded h).inEngine
  case lut => exact (Aligned.bounded h).inEngine
  case mull => exact (LookedUp.bounded h).inEngine
  case mulc | mulr | interval | shorter => exact (LookedUp.bounded h.1).inEngine
  case direct | tie => exact (LookedUp.bounded h.1.1).inEngine
  case idle | decode | signw | zero | normal | subnormal | fastint => exact absurd h0 (by decide)
  case digits | layout | emit | done | fault => exact absurd h1 (by decide)

/-- A phase that stages the body leaves POS after the sign, so all of the body is still to be written. -/
theorem left_of_staged (h : Signed s) (hp : s.phase = .zero ∨ s.phase = .layout) :
    (convert s.raw).length - (quietStep s).pos.toNat = (body s.raw).length := by
  obtain ⟨-, -, -, -, -, -, -, -, -, -, -, -, -, -, -, hpos, -⟩ :=
    registersChangeOnlyInTheirPhases (Ports.quiet s) s _ rfl (blockStep_quiet s)
  have hkeep : (quietStep s).pos = s.pos := by
    by_contra hne
    have hw := hpos hne
    rw [ready_iff] at hw
    obtain hp | hp := hp <;> simp [hp] at hw
  rw [hkeep, convert_length h.not_infnan, h.2.1]
  omega

theorem stepsLeft_quietStep_of_driver (h : PhaseInv s) (hb : s.busy = true) (h6 : s.phase.code.toNat ≤ 6) :
    stepsLeft s = stepsLeft (quietStep s) + 1 := by
  have hnext := quietStep_phase s
  have hraw := quietStep_raw s
  obtain ⟨h5, h2, -⟩ := steps_range s.raw
  obtain ⟨hni, -⟩ := (busy_iff s).mp hb
  rw [successor, quiet_rst, if_neg Bool.false_ne_true] at hnext
  unfold PhaseInv at h
  cases hp : s.phase <;> rw [hp] at h h6 hnext <;> dsimp only at hnext
  case idle => exact absurd hp hni
  case decode =>
    split_ifs at hnext with hi
    · simp only [stepsLeft, hp, hnext, steps_of_infnan ((classOf_eq_infnan_iff_toNat s.raw).mpr hi)]
    · simp only [stepsLeft, hp, hnext, hraw]
      omega
  case signw =>
    obtain ⟨⟨-, -, -, hi, -⟩, -⟩ := h
    have := h5 hi
    split_ifs at hnext <;> simp only [stepsLeft, hp, hnext, hraw] <;> omega
  case zero =>
    have hbody : body s.raw = [0x30] := if_pos h.2
    simp only [stepsLeft, hp, hnext, hraw, steps_of_zero h.2, left_of_staged h.1 (.inl hp), hbody]
    rfl
  case normal =>
    have := h5 h.1.not_infnan
    split_ifs at hnext <;> simp only [stepsLeft, hp, hnext, hraw] <;> omega
  case subnormal =>
    have := h5 h.1.not_infnan
    simp only [stepsLeft, hp, hnext, hraw]
    omega
  case fastint =>
    obtain ⟨⟨hsg, hz, -⟩, hf⟩ := h
    simp only [stepsLeft, hp, hnext, hraw, steps_of_fast hz hsg.not_infnan hf]
    omega
  all_goals exact absurd h6 (by decide)

theorem stepsLeft_quietStep_of_engine (h : PhaseInv s) (h7 : 7 ≤ s.phase.code.toNat) (h17 : s.phase.code.toNat ≤ 17) :
    stepsLeft s = stepsLeft (quietStep s) + 1 := by
  have hnext := quietStep_phase s
  have hnextinv := phaseInv_quietStep h
  have hraw := quietStep_raw s
  have hin := inEngine_of_phase h h7 h17
  have h16 := hin.steps_range
  rw [successor, quiet_rst, if_neg Bool.false_ne_true] at hnext
  unfold PhaseInv at h
  cases hp : s.phase <;> rw [hp] at h h7 h17 hnext <;> dsimp only at hnext
  case bounds | expk | shifth | mull | mulc | mulr | interval =>
    simp only [stepsLeft, hp, hnext, hraw]
    omega
  case lut =>
    split_ifs at hnext
    · simp only [stepsLeft, hp, hnext, hraw]
      omega
    · rw [PhaseInv, hnext] at hnextinv
      exact hnextinv.elim
  case shorter =>
    obtain ⟨-, -, hlo, hup, hS⟩ := h
    rw [hlo, hup, hS] at hnext
    split_ifs at hnext with hd
    · simp only [stepsLeft, hp, hnext, hraw]
      omega
    · have hs : ¬ NotShorter s := by simpa [NotShorter] using hd
      simp only [stepsLeft, hp, hnext, hraw, hin.steps_of_shorter hs]
      omega
  case direct =>
    obtain ⟨⟨-, -, hlo, hup, hS⟩, hs⟩ := h
    rw [hlo, hup, hS] at hnext
    split_ifs at hnext with hd
    · simp only [stepsLeft, hp, hnext, hraw]
      omega
    · have hnd : ¬ NotDirect s := by simpa [NotDirect] using hd
      simp only [stepsLeft, hp, hnext, hraw, hin.steps_of_direct hs hnd]
      omega
  case tie =>
    obtain ⟨-, hs, hd⟩ := h
    simp only [stepsLeft, hp, hnext, hraw, hin.steps_of_tie hs hd]
    omega
  case idle | decode | signw | zero | normal | subnormal | fastint => exact absurd h7 (by decide)
  all_goals exact absurd h17 (by decide)

theorem stepsLeft_quietStep_of_text (h : PhaseInv s) (hb : s.busy = true) (h18 : 18 ≤ s.phase.code.toNat) :
    stepsLeft s = stepsLeft (quietStep s) + 1 := by
  have hnext := quietStep_phase s
  have hnextinv := phaseInv_quietStep h
  have hraw := quietStep_raw s
  obtain ⟨-, hnd, hnf⟩ := (busy_iff s).mp hb
  rw [successor, quiet_rst, if_neg Bool.false_ne_true] at hnext
  unfold PhaseInv at h
  cases hp : s.phase <;> rw [hp] at h h18 hnext <;> dsimp only at hnext
  case done => exact absurd hp hnd
  case fault => exact absurd hp hnf
  case digits => simp only [stepsLeft, hp, hnext, hraw]
  case layout => simp only [stepsLeft, hp, hnext, hraw, left_of_staged h.1.1 (.inr hp)]
  case emit =>
    have hpos := quietStep_pos_of_emit h hp
    obtain ⟨-, -, -, -, -, -, -, hlt, -⟩ := h
    split_ifs at hnext
    · rw [PhaseInv, hnext] at hnextinv
      obtain ⟨hlen, hposlen⟩ := hnextinv
      rw [← hposlen, hraw] at hlen
      simp only [stepsLeft, hp, hnext]
      omega
    · simp only [stepsLeft, hp, hnext, hraw]
      omega
  all_goals exact absurd h18 (by decide)

theorem stepsLeft_quietStep (h : PhaseInv s) (hb : s.busy = true) : stepsLeft s = stepsLeft (quietStep s) + 1 := by
  by_cases h6 : s.phase.code.toNat ≤ 6
  · exact stepsLeft_quietStep_of_driver h hb h6
  by_cases h17 : s.phase.code.toNat ≤ 17
  · exact stepsLeft_quietStep_of_engine h (by omega) h17
  · exact stepsLeft_quietStep_of_text h hb (by omega)

theorem stepsLeft_requestStep (w : Word) (hr : s.ready = true) : stepsLeft (requestStep w s) = steps w - 1 := by
  rw [requestStep_of_ready w hr]
  rfl

theorem stepsLeft_of_not_busy (hb : s.busy = false) : stepsLeft s = 0 := by
  have hph : s.phase = .idle ∨ s.phase = .done ∨ s.phase = .fault := by
    by_contra hne
    simp only [not_or] at hne
    exact Bool.false_ne_true (hb.symm.trans ((busy_iff s).mpr hne))
  obtain hp | hp | hp := hph <;> simp only [stepsLeft, hp]

/-- The block is busy for the steps that are left and for no more. -/
theorem runWhileBusy_eq_quietSteps (fuel : ℕ) (h : PhaseInv s) (hle : stepsLeft s ≤ fuel) :
    runWhileBusy fuel s = quietSteps (stepsLeft s) s ∧ (runWhileBusy fuel s).busy = false := by
  induction fuel generalizing s with
  | zero =>
    have hb : s.busy = false := by
      by_contra hb
      have := stepsLeft_quietStep h (by simpa using hb)
      omega
    rw [stepsLeft_of_not_busy hb]
    exact ⟨rfl, hb⟩
  | succ fuel ih =>
    unfold runWhileBusy
    split
    next hb =>
      have hleft := stepsLeft_quietStep h hb
      rw [hleft]
      exact ih (phaseInv_quietStep h) (by omega)
    next hb =>
      rw [stepsLeft_of_not_busy (by simpa using hb)]
      exact ⟨rfl, by simpa using hb⟩

/-- A CONVERT of a ready block takes the steps of R191's table and leaves the block done. -/
theorem convertWord_steps (w : Word) (hr : s.ready = true) :
    convertWord w s = quietSteps (steps w - 1) (requestStep w s) ∧ (convertWord w s).phase = .done := by
  obtain ⟨-, -, hmax⟩ := steps_range w
  have hconv := converting_convertWord w hr
  have hleft := stepsLeft_requestStep w hr
  obtain ⟨hrun, hb⟩ := runWhileBusy_eq_quietSteps maxStepsAfterStart (converting_requestStep w hr).inv
    (by rw [hleft, maxStepsAfterStart]; omega)
  rw [hleft] at hrun
  rw [convertWord, if_pos hr] at hconv ⊢
  exact ⟨hrun, hconv.phase_eq_done hb⟩

end Sys2Proof.Safety
end

section
/-! What a conversion leaves (R48, R90): the text in OUT, LEN, the fields of the operand, FAULT and CAUSE. -/

namespace Sys2Proof.Safety

open Sys2Proof.Machine
open Sys2Proof.Machine.Reference (classOf convert body steps)

variable {s u : State} {w : Word}

/-- LUT's tests hold, so no step of a conversion writes FAULT or CAUSE (R121). -/
theorem convertWord_fault_cause (w : Word) (hr : s.ready = true) :
    (convertWord w s).fault = s.fault ∧ (convertWord w s).cause = s.cause := by
  refine convertWord_induction (P := fun t => t.fault = s.fault ∧ t.cause = s.cause) hr ?_ fun u hu _ h => ?_
  · rw [requestStep_of_ready w hr]
    exact ⟨rfl, rfl⟩
  · obtain ⟨hf, hc⟩ := fault_cause_of_blockStep rfl hu.inv (blockStep_quiet u)
    exact ⟨hf.trans h.1, hc.trans h.2⟩

theorem convert_length_pos (hi : classOf w ≠ .infnan) : 1 ≤ (convert w).length := by
  have hb := body_length hi
  rw [convert_length hi]
  omega

/-- The bytes of OUT behind the text are not written (R48). -/
theorem convertWord_out_behind (w : Word) (hr : s.ready = true) :
    ∀ a, (convert w).length ≤ a → outAt (convertWord w s) a = outAt s a := by
  refine convertWord_induction (P := fun t => ∀ a, (convert w).length ≤ a → outAt t a = outAt s a) hr ?_ fun u hu _ h => ?_
  · rw [requestStep_of_ready w hr]
    exact fun _ _ => rfl
  · intro a ha
    obtain ⟨-, hph, -, -, -, hother⟩ | ⟨-, hsame⟩ := onlySignwAndEmitWriteOut (Ports.quiet u) u _ (blockStep_quiet u)
    · refine (hother a ?_).trans (h a ha)
      have hinv := hu.inv
      rw [← hu.raw] at ha
      obtain hp | hp := hph
      · rw [PhaseInv, hp] at hinv
        obtain ⟨⟨-, -, -, hi, -⟩, hpos⟩ := hinv
        have hlen := convert_length_pos hi
        have hzero : u.pos.toNat = 0 := by rw [hpos]; rfl
        omega
      · obtain ⟨-, -, -, -, -, -, -, hlt, -⟩ := emitting_of_phase hinv hp
        omega
    · exact (hsame a).trans (h a ha)

/-- At its end a conversion has all of its text in OUT and, where the operand is supported, its body's length in TLEN. -/
def Completed (w : Word) (t : State) : Prop :=
  t.phase = .done → Holds t (convert w) ∧ (classOf w ≠ .infnan → t.tlen.toNat = (body w).length)

/-- EMIT writes its byte at POS and leaves TLEN (R140). -/
theorem quietStep_of_emit_writes (hp : u.phase = .emit) :
    (quietStep u).out = u.out.write u.pos.toNat (beginStep (Ports.quiet u) u).bodyByte ∧ (quietStep u).tlen = u.tlen := by
  rw [quietStep_of_emit hp, ruleEmit]
  obtain ⟨-, e⟩ | ⟨-, e⟩ := emitByte_cases (beginStep (Ports.quiet u) u).bodyByte (beginStep (Ports.quiet u) u) <;> rw [e]
  · exact ⟨rfl, rfl⟩
  · exact ⟨rfl, rfl⟩

/-- The last step of EMIT completes the text. -/
theorem completed_of_emit (hu : Converting w u) (hp : u.phase = .emit) : Completed w (quietStep u) := by
  intro hd
  have h := emitting_of_phase hu.inv hp
  have hbyte := Emitting.bodyByte_eq (s := beginStep (Ports.quiet u) u) h
  have hpos := quietStep_pos_of_emit h hp
  obtain ⟨hw, ht⟩ := quietStep_of_emit_writes hp
  have hdone := hu.quietStep.inv
  rw [PhaseInv, hd, hu.quietStep.raw] at hdone
  obtain ⟨hlen, hposlen⟩ := hdone
  obtain ⟨-, -, -, hl, -, -, -, -, hout⟩ := h
  rw [hu.raw] at hl hout
  rw [beginStep_raw, hu.raw] at hbyte
  have hall : (convert w).take (u.pos.toNat + 1) = convert w := by
    rw [← hpos, hposlen, hlen, List.take_length]
  have hholds := holds_write hout hbyte
  rw [hall] at hholds
  refine ⟨fun i hi => ?_, fun _ => ?_⟩
  · rw [outAt, hw]
    exact hholds i hi
  · rw [ht]
    exact hl

theorem completed_convertWord (w : Word) (hr : s.ready = true) : Completed w (convertWord w s) := by
  refine convertWord_induction (P := Completed w) hr ?_ fun u hu hb _ => ?_
  · rw [requestStep_of_ready w hr]
    exact fun h => absurd h (by decide : Phase.decode ≠ Phase.done)
  · intro hd
    obtain ⟨-, hi⟩ | hp := phase_of_successor_done rfl hb ((quietStep_phase u).symm.trans hd)
    · have hc : classOf w = .infnan := (classOf_eq_infnan_iff_toNat w).mpr (hu.raw ▸ hi)
      rw [show convert w = [] from if_pos hc]
      exact ⟨fun i hi => absurd hi (Nat.not_lt_zero i), fun h => absurd hc h⟩
    · exact completed_of_emit hu hp hd

/-- LEN and POS count the bytes of the text (R140). -/
theorem convertWord_len (w : Word) (hr : s.ready = true) :
    (convertWord w s).len.toNat = (convert w).length ∧ (convertWord w s).pos = (convertWord w s).len := by
  obtain ⟨-, hdone⟩ := convertWord_steps w hr
  have hconv := converting_convertWord w hr
  have hinv := hconv.inv
  rwa [PhaseInv, hdone, hconv.raw] at hinv

/-- R90 for every operand word. -/
theorem converts_of_exec {i : Instr} (h : ∀ s, exec i s = .next (convertWord w s)) : Converts i w := by
  intro s hr hf
  obtain ⟨-, h2, hmax⟩ := steps_range w
  obtain ⟨hsteps, hdone⟩ := convertWord_steps w hr
  obtain ⟨hfault, hcause⟩ := convertWord_fault_cause w hr
  obtain ⟨hholds, -⟩ := completed_convertWord w hr hdone
  obtain ⟨hlen, -⟩ := convertWord_len w hr
  exact ⟨convertWord w s, steps w - 1, h s, by omega, by omega, hsteps, hdone, hfault.trans hf, hcause,
    (converting_convertWord w hr).raw, hlen, hholds, convertWord_out_behind w hr⟩

/-- Settles O40: every class runs the transaction of its operand word. -/
theorem convertComputesTheReference : Obligations.ConvertComputesTheReference :=
  ⟨fun _ _ => converts_of_exec fun _ => rfl, fun _ => converts_of_exec fun _ => rfl,
    fun _ _ => converts_of_exec fun _ => rfl, fun _ _ _ => converts_of_exec fun _ => rfl,
    fun _ _ _ => converts_of_exec fun _ => rfl⟩

end Sys2Proof.Safety
end

section
/-! The registers a conversion of a zero and of an integer of the fast path leaves (R83, R84, R86, R90). -/

namespace Sys2Proof.Safety

open Sys2Proof.Machine
open Sys2Proof.Machine.Reference (classOf body signText operandC operandQ operandFast decimalResult)

variable {s t u : State} {w : Word}

/-! The fields of the operand (R81). -/

/-- SIGN, EF and MF hold the fields of RAW. -/
def HasFields (s : State) : Prop := s.sign = signField s.raw ∧ s.ef = expField s.raw ∧ s.mf = mantField s.raw

/-- DECODE extracts the fields, and no other phase writes them. -/
theorem hasFields_quietStep (h : s.phase = .decode ∨ HasFields s) : HasFields (quietStep s) := by
  by_cases hp : s.phase = .decode
  · have hq : quietStep s = ruleDecode (beginStep (Ports.quiet s) s) := Host.Outcome.next.inj (next_quietStep hp)
    obtain ⟨-, e⟩ | ⟨-, e⟩ := ruleDecode_cases (beginStep (Ports.quiet s) s) <;> rw [hq, e]
    · exact ⟨rfl, rfl, rfl⟩
    · exact ⟨rfl, rfl, rfl⟩
  · obtain ⟨-, hfields, -⟩ := registersChangeOnlyInTheirPhases (Ports.quiet s) s _ rfl (blockStep_quiet s)
    have hkeep := mt hfields hp
    simp only [not_or, not_not] at hkeep
    obtain ⟨hs, he, hm⟩ := hkeep
    rw [HasFields, hs, he, hm, quietStep_raw]
    exact h.resolve_left hp

theorem convertWord_fields (w : Word) (hr : s.ready = true) : HasFields (convertWord w s) := by
  obtain ⟨-, hdone⟩ := convertWord_steps w hr
  have h : (convertWord w s).phase = .decode ∨ HasFields (convertWord w s) :=
    convertWord_induction (P := fun t => t.phase = .decode ∨ HasFields t) hr
      (.inl (by rw [requestStep_of_ready w hr])) fun u _ _ h => .inr (hasFields_quietStep h)
  exact h.resolve_left (by rw [hdone]; decide)

/-- RAW, SIGN, EF and MF of a conversion are those of its operand word. -/
theorem convertWord_operandWord (sign : BitVec 1) (ef : BitVec 8) (mf : BitVec 23) (hr : s.ready = true) :
    (convertWord (operandWord sign ef mf) s).raw = operandWord sign ef mf ∧
      (convertWord (operandWord sign ef mf) s).sign = sign ∧ (convertWord (operandWord sign ef mf) s).ef = ef ∧
      (convertWord (operandWord sign ef mf) s).mf = mf := by
  have hraw := (converting_convertWord (operandWord sign ef mf) hr).raw
  have hfields := convertWord_fields (operandWord sign ef mf) hr
  rw [HasFields, hraw, signField_operandWord, expField_operandWord, mantField_operandWord] at hfields
  exact ⟨hraw, hfields⟩

/-! What the engine and the layout write. -/

/-- The state with everything blanked that is not the host's actions, FAULT, CAUSE or a register of the phases 7 to 17
alone. -/
def engineSide (s : State) : State :=
  { State.reset with
    host := s.host, fault := s.fault, cause := s.cause, irr := s.irr, cbl := s.cbl, cb := s.cb, cbr := s.cbr, k := s.k
    h := s.h, g := s.g, vbl := s.vbl, vb := s.vb, vbr := s.vbr, lower := s.lower, upper := s.upper, sReg := s.sReg }

/-- `engineSide` and the registers of the assembly, the Decimal Result and the layout that the conversion of a zero does
not write. -/
def beyondZero (s : State) : State :=
  { engineSide s with
    c := s.c, q := s.q, sig := s.sig, exp := s.exp, dig := s.dig, n := s.n, nk := s.nk, dpp := s.dpp, se := s.se
    mode := s.mode }

theorem engineSide_phaseRule (h : ¬ (7 ≤ s.phase.code.toNat ∧ s.phase.code.toNat ≤ 17)) :
    engineSide (phaseRule s) = engineSide s := by
  unfold phaseRule
  cases hp : s.phase with
  | idle | done =>
    obtain ⟨-, e⟩ | ⟨-, e⟩ := handshake_cases s
    · exact (congrArg engineSide e :)
    · exact (congrArg engineSide e :)
  | decode => obtain ⟨_, _, _, _, _, e⟩ := ruleDecode_writes s; exact (congrArg engineSide e :)
  | signw => obtain ⟨_, _, _, _, _, _, e⟩ := ruleSignw_writes s; exact (congrArg engineSide e :)
  | digits => obtain ⟨_, _, _, _, e⟩ := ruleDigits_writes s; exact (congrArg engineSide e :)
  | emit => obtain ⟨_, _, _, _, _, _, _, e⟩ := ruleEmit_writes s; exact (congrArg engineSide e :)
  | zero | normal | subnormal | fastint | layout | fault => rfl
  | bounds | expk | shifth | lut | mull | mulc | mulr | interval | shorter | direct | tie =>
    exact absurd (by rw [hp]; decide) h

theorem beyondZero_phaseRule (h : s.phase = .decode ∨ s.phase = .signw ∨ s.phase = .zero ∨ s.phase = .emit) :
    beyondZero (phaseRule s) = beyondZero s := by
  unfold phaseRule
  obtain hp | hp | hp | hp := h <;> rw [hp]
  · obtain ⟨_, _, _, _, _, e⟩ := ruleDecode_writes s; exact (congrArg beyondZero e :)
  · obtain ⟨_, _, _, _, _, _, e⟩ := ruleSignw_writes s; exact (congrArg beyondZero e :)
  · rfl
  · obtain ⟨_, _, _, _, _, _, _, e⟩ := ruleEmit_writes s; exact (congrArg beyondZero e :)

/-- Two states with the same engine side differ in the other fields only. -/
theorem eq_of_engineSide_eq (h : engineSide t = engineSide s) :
    t = { s with
          rst := t.rst, start := t.start, inBits := t.inBits, wrEn := t.wrEn, wrOff := t.wrOff, wrData := t.wrData
          freeCtr := t.freeCtr, out := t.out, raw := t.raw, sign := t.sign, ef := t.ef, mf := t.mf, c := t.c, q := t.q
          sig := t.sig, exp := t.exp, dig := t.dig, n := t.n, nk := t.nk, dpp := t.dpp, se := t.se, mode := t.mode
          txt := t.txt, tlen := t.tlen, pos := t.pos, len := t.len, phase := t.phase } := by
  cases s
  cases t
  cases h
  rfl

theorem eq_of_beyondZero_eq (h : beyondZero t = beyondZero s) :
    t = { s with
          rst := t.rst, start := t.start, inBits := t.inBits, wrEn := t.wrEn, wrOff := t.wrOff, wrData := t.wrData
          freeCtr := t.freeCtr, out := t.out, raw := t.raw, sign := t.sign, ef := t.ef, mf := t.mf, txt := t.txt
          tlen := t.tlen, pos := t.pos, len := t.len, phase := t.phase } := by
  cases s
  cases t
  cases h
  rfl

/-! A zero (R83). -/

theorem Assembled.not_zero (h : Assembled s) : classOf s.raw ≠ .zero := by
  obtain ⟨-, hz, -⟩ := h
  exact hz

theorem Decided.not_zero (h : Decided s) : classOf s.raw ≠ .zero := by
  obtain ⟨-, hz, -⟩ := h
  exact hz

/-- The operand zero goes from SIGNW to ZERO and EMIT. -/
theorem phase_of_zero (h : PhaseInv s) (hz : classOf s.raw = .zero) (hb : s.busy = true) :
    s.phase = .decode ∨ s.phase = .signw ∨ s.phase = .zero ∨ s.phase = .emit := by
  have hengine := inEngine_of_phase h
  obtain ⟨hni, hnd, hnf⟩ := (busy_iff s).mp hb
  unfold PhaseInv at h
  cases hp : s.phase <;> rw [hp] at h hengine
  case decode | signw | zero | emit => simp
  case idle => exact absurd hp hni
  case done => exact absurd hp hnd
  case fault => exact absurd hp hnf
  case normal | subnormal =>
    obtain ⟨-, hnz, -⟩ := h
    exact absurd hz hnz
  case fastint => exact absurd hz (Assembled.not_zero h.1)
  case digits => exact absurd hz (Decided.not_zero h)
  case layout => exact absurd hz (Decided.not_zero h.1)
  all_goals exact absurd hz (hengine (by decide) (by decide)).assembled.not_zero

theorem beyondZero_convertWord (hz : classOf w = .zero) (hr : s.ready = true) :
    beyondZero (convertWord w s) = beyondZero s := by
  refine convertWord_induction (P := fun t => beyondZero t = beyondZero s) hr ?_ fun u hu hb h => ?_
  · rw [requestStep_of_ready w hr]
    rfl
  · have hph := phase_of_zero hu.inv (hu.raw ▸ hz) hb
    exact (beyondZero_phaseRule (s := beginStep (Ports.quiet u) u) hph).trans h

/-- Settles O39: the text is the sign and "0", and the path DECODE, SIGNW, ZERO, EMIT writes nothing beyond. -/
theorem convertZeroPrintsZero : Obligations.ConvertZeroPrintsZero := by
  intro sign s hr
  have hz : classOf (operandWord sign 0 0) = .zero :=
    (classOf_eq_zero_iff _).mpr ⟨expField_operandWord sign 0 0, mantField_operandWord sign 0 0⟩
  have hi : classOf (operandWord sign 0 0) ≠ .infnan := by rw [hz]; decide
  have hbody : body (operandWord sign 0 0) = [0x30] := if_pos hz
  have htext := convert_of_not_infnan hi
  rw [signText, signField_operandWord, hbody] at htext
  obtain ⟨hlen, hpos⟩ := convertWord_len (operandWord sign 0 0) hr
  obtain ⟨-, hdone⟩ := convertWord_steps (operandWord sign 0 0) hr
  obtain ⟨hholds, htlen⟩ := completed_convertWord (operandWord sign 0 0) hr hdone
  have hbehind := convertWord_out_behind (operandWord sign 0 0) hr
  refine ⟨convertWord (operandWord sign 0 0) s, rfl, (done_iff _).mpr hdone, fun h0 => ?_, fun h1 => ?_, ?_⟩
  · rw [h0, if_neg (by decide), ← h0] at htext
    rw [htext] at hlen hholds hbehind
    exact ⟨hlen, hholds 0 (by decide), fun a ha => hbehind a (Nat.one_le_iff_ne_zero.mpr ha)⟩
  · rw [h1, if_pos rfl, ← h1] at htext
    rw [htext] at hlen hholds hbehind
    exact ⟨hlen, hholds 0 (by decide), hholds 1 (by decide), hbehind⟩
  · have hframe := eq_of_beyondZero_eq (beyondZero_convertWord hz hr)
    have htl : (convertWord (operandWord sign 0 0) s).tlen = 1 :=
      BitVec.eq_of_toNat_eq ((htlen hi).trans (by rw [hbody]; rfl))
    obtain ⟨hraw, hs, he, hm⟩ := convertWord_operandWord sign 0 0 hr
    rw [hraw, hs, he, hm, htl, hpos, hdone] at hframe
    exact hframe

/-! An integer of the fast path (R84, R86). -/

theorem engineSide_convertWord (hf : operandFast w = true) (hr : s.ready = true) :
    engineSide (convertWord w s) = engineSide s := by
  refine convertWord_induction (P := fun t => engineSide t = engineSide s) hr ?_ fun u hu _ h => ?_
  · rw [requestStep_of_ready w hr]
    rfl
  · refine (engineSide_phaseRule (s := beginStep (Ports.quiet u) u) fun hcode => ?_).trans h
    have hslow := (inEngine_of_phase hu.inv hcode.1 hcode.2).2
    rw [hu.raw, hf] at hslow
    exact absurd hslow (by decide)

/-! C, Q and the Decimal Result at the end of a conversion. -/

/-- The phases 6 to 17 (R72) have the operand assembled. -/
theorem assembled_of_phase (h : PhaseInv s) (h0 : 6 ≤ s.phase.code.toNat) (h1 : s.phase.code.toNat ≤ 17) :
    Assembled s := by
  by_cases hp : s.phase = .fastint
  · rw [PhaseInv, hp] at h
    exact h.1
  · have h7 : s.phase.code.toNat ≠ 6 := fun e => hp (by cases hq : s.phase <;> rw [hq] at e <;> simp [Phase.code] at e)
    exact (inEngine_of_phase h (by omega) h1).assembled

/-- The layout and the emission follow the assembly, but for a zero and an unsupported operand (R74). -/
theorem phase_of_successor_late {p : Ports} (hp : p.rst = false) (hb : s.busy = true)
    (h : 18 ≤ (successor p s).code.toNat) :
    6 ≤ s.phase.code.toNat ∨ s.phase = .zero ∨ (s.phase = .decode ∧ s.raw.toNat / 2 ^ 23 % 256 = 255) := by
  obtain ⟨hni, -⟩ := (busy_iff s).mp hb
  unfold successor at h
  rw [hp, if_neg Bool.false_ne_true] at h
  cases hph : s.phase <;> rw [hph] at h
  case idle => exact absurd hph hni
  case zero => exact .inr (.inl rfl)
  case decode =>
    dsimp only at h
    split_ifs at h with hi
    · exact .inr (.inr ⟨rfl, hi⟩)
    · exact absurd h (by decide)
  case signw | normal => dsimp only at h; split_ifs at h <;> exact absurd h (by decide)
  case subnormal => exact absurd h (by decide : ¬ 18 ≤ Phase.bounds.code.toNat)
  all_goals exact .inl (by decide)

/-- C and Q stay as NORMAL or SUBNORMAL has left them (R84, R85). -/
theorem convertWord_operand (hz : classOf w ≠ .zero) (hi : classOf w ≠ .infnan) (hr : s.ready = true) :
    (convertWord w s).c.toNat = operandC w ∧ (convertWord w s).q.toInt = operandQ w := by
  obtain ⟨-, hdone⟩ := convertWord_steps w hr
  refine convertWord_induction
    (P := fun t => 6 ≤ t.phase.code.toNat → t.c.toNat = operandC w ∧ t.q.toInt = operandQ w) hr ?_ (fun u hu hb ih h6 => ?_)
    (by rw [hdone]; decide)
  · rw [requestStep_of_ready w hr]
    exact fun h => absurd h (by decide : ¬ 6 ≤ Phase.decode.code.toNat)
  · by_cases h17 : (quietStep u).phase.code.toNat ≤ 17
    · obtain ⟨-, -, hC, hQ⟩ := assembled_of_phase hu.quietStep.inv h6 h17
      rw [hu.quietStep.raw] at hC hQ
      exact ⟨hC, hQ⟩
    · rw [quietStep_phase] at h17
      obtain h6' | hp | ⟨-, hx⟩ := phase_of_successor_late (p := Ports.quiet u) rfl hb (by omega)
      · obtain ⟨-, -, hcq, -⟩ := registersChangeOnlyInTheirPhases (Ports.quiet u) u _ rfl (blockStep_quiet u)
        have hkeep := mt hcq (by rintro (hp | hp) <;> rw [hp] at h6' <;> exact absurd h6' (by decide))
        simp only [not_or, not_not] at hkeep
        rw [hkeep.1, hkeep.2]
        exact ih h6'
      · have hinv := hu.inv
        rw [PhaseInv, hp, hu.raw] at hinv
        exact absurd hinv.2 hz
      · exact absurd ((classOf_eq_infnan_iff_toNat w).mpr (hu.raw ▸ hx)) hi

/-- EMIT follows a phase that stages a body, and itself (R74). -/
theorem phase_of_successor_emit {p : Ports} (hp : p.rst = false) (h : successor p s = .emit) :
    s.phase = .zero ∨ s.phase = .layout ∨ s.phase = .emit := by
  unfold successor at h
  rw [hp, if_neg Bool.false_ne_true] at h
  cases hph : s.phase <;> rw [hph] at h
  case zero | layout | emit => simp
  case idle | decode | signw | normal | lut | shorter | direct | done => dsimp only at h; split_ifs at h
  all_goals cases h

/-- R131 for an integer below 10^9: it is printed in full. -/
theorem layoutText_integer (d : ℕ → Byte) {n : ℕ} (nk : ℕ) (hn : n ≤ 9) (h1 : 1 ≤ n) :
    (layoutText Config.encoder d n nk n).1 = .fixedInt := by
  unfold layoutText
  rw [if_neg (by rw [isSci_encoder]; omega), if_pos le_rfl]

/-- What SIG, EXP and MODE hold once the body is staged. -/
def HasResult (w : Word) (s : State) : Prop :=
  s.sig.toNat = (decimalResult w).1 ∧ s.exp.toInt = (decimalResult w).2 ∧ (operandFast w = true → s.mode = .fixedInt)

theorem hasResult_of_layout (hu : Converting w u) (hp : u.phase = .layout) : HasResult w (quietStep u) := by
  have hinv := hu.inv
  rw [PhaseInv, hp] at hinv
  have hn := Digited.n_le hinv
  obtain ⟨hdec, hnlen, -⟩ := hinv
  obtain ⟨h0, -⟩ := hdec.sig_range
  obtain ⟨-, -, hsig, hexp⟩ := hdec
  have h1 := decimal_length_pos h0
  rw [hu.raw] at hsig hexp
  have hq : quietStep u = ruleLayout (beginStep (Ports.quiet u) u) := Host.Outcome.next.inj (next_quietStep hp)
  rw [hq]
  refine ⟨hsig, hexp, fun hf => ?_⟩
  have hres : decimalResult w = (operandC w / 2 ^ (150 - (expField w).toNat), 0) := if_pos hf
  have he : u.exp.toInt = 0 := by rw [hexp, hres]
  change (layoutText Config.encoder (beginStep (Ports.quiet u) u).digit u.n.toNat u.nk.toNat (u.n.toNat + u.exp.toInt)).1 = _
  rw [he, add_zero]
  exact layoutText_integer _ _ hn (by omega)

theorem hasResult_of_emit (h : HasResult w u) (hp : u.phase = .emit) : HasResult w (quietStep u) := by
  obtain ⟨_, _, _, _, _, _, _, e⟩ := ruleEmit_writes (beginStep (Ports.quiet u) u)
  rw [quietStep_of_emit hp, e]
  exact h

/-- SIG, EXP and MODE stay as the engine, or FASTINT, and LAYOUT have left them (R86, R115, R131). -/
theorem convertWord_result (hz : classOf w ≠ .zero) (hi : classOf w ≠ .infnan) (hr : s.ready = true) :
    HasResult w (convertWord w s) := by
  obtain ⟨-, hdone⟩ := convertWord_steps w hr
  refine convertWord_induction (P := fun t => t.phase = .emit ∨ t.phase = .done → HasResult w t) hr ?_
    (fun u hu hb ih h => ?_) (.inr hdone)
  · rw [requestStep_of_ready w hr]
    exact fun h => absurd h (by decide : ¬ (Phase.decode = .emit ∨ Phase.decode = .done))
  · rw [quietStep_phase] at h
    obtain h | h := h
    · obtain hp | hp | hp := phase_of_successor_emit rfl h
      · have hinv := hu.inv
        rw [PhaseInv, hp, hu.raw] at hinv
        exact absurd hinv.2 hz
      · exact hasResult_of_layout hu hp
      · exact hasResult_of_emit (ih (.inl hp)) hp
    · obtain ⟨-, hx⟩ | hp := phase_of_successor_done rfl hb h
      · exact absurd ((classOf_eq_infnan_iff_toNat w).mpr (hu.raw ▸ hx)) hi
      · exact hasResult_of_emit (ih (.inl hp)) hp

theorem toNat_ne_zero_of_ne {ef : BitVec 8} (h : ef ≠ 0) : ef.toNat ≠ 0 := fun e => h (BitVec.eq_of_toNat_eq e)

theorem operandC_operandWord (sign : BitVec 1) {ef : BitVec 8} (mf : BitVec 23) (he : ef ≠ 0) :
    operandC (operandWord sign ef mf) = 2 ^ 23 + mf.toNat := by
  rw [operandC, expField_operandWord, mantField_operandWord, if_neg (toNat_ne_zero_of_ne he)]

theorem operandQ_operandWord (sign : BitVec 1) {ef : BitVec 8} (mf : BitVec 23) (he : ef ≠ 0) :
    operandQ (operandWord sign ef mf) = (ef.toNat : ℤ) - 150 := by
  rw [operandQ, expField_operandWord, if_neg (toNat_ne_zero_of_ne he)]

/-- The implicit bit does not change which of the low bits are zero, so `fast` can be read off the mantissa field (R62). -/
theorem operandFast_operandWord (sign : BitVec 1) {ef : BitVec 8} {mf : BitVec 23} (h : fastOperand ef mf = true) :
    operandFast (operandWord sign ef mf) = true := by
  have he := (exp_ne_of_fastOperand h).1
  obtain ⟨h0, h1, h2⟩ := (fastOperand_iff ef mf).mp h
  have hpow : 2 ^ (150 - ef.toNat) ∣ 2 ^ 23 := Nat.pow_dvd_pow 2 (by omega)
  have hdvd : 2 ^ (150 - ef.toNat) ∣ 2 ^ 23 + mf.toNat := Nat.dvd_add hpow (Nat.dvd_of_mod_eq_zero h2)
  simp only [operandFast, operandC_operandWord sign mf he, expField_operandWord, h0, h1, decide_true, Bool.true_and,
    beq_iff_eq]
  exact Nat.mod_eq_zero_of_dvd hdvd

/-- Settles O41: a fast operand never enters phases 7 to 17, and what NORMAL, FASTINT and LAYOUT write stays to the end. -/
theorem fastintBypassesTheEngine : Obligations.FastintBypassesTheEngine := by
  intro sign ef mf s hwf hr
  obtain ⟨he0, he255⟩ := exp_ne_of_fastOperand hwf
  have hf := operandFast_operandWord sign hwf
  have hz : classOf (operandWord sign ef mf) ≠ .zero := by
    rw [Ne, classOf_eq_zero_iff, expField_operandWord]
    exact fun h => he0 h.1
  have hi : classOf (operandWord sign ef mf) ≠ .infnan := by
    rwa [Ne, classOf_eq_infnan_iff, expField_operandWord]
  have hres : decimalResult (operandWord sign ef mf) = _ := if_pos hf
  obtain ⟨-, hdone⟩ := convertWord_steps (operandWord sign ef mf) hr
  obtain ⟨hC, hQ⟩ := convertWord_operand hz hi hr
  obtain ⟨hsig, hexp, hmode⟩ := convertWord_result hz hi hr
  rw [hres, ← hC, expField_operandWord] at hsig
  rw [hres] at hexp
  rw [operandC_operandWord sign mf he0] at hC
  rw [operandQ_operandWord sign mf he0] at hQ
  refine ⟨convertWord (operandWord sign ef mf) s, rfl, (done_iff _).mpr hdone, hC, hQ, hsig, BitVec.eq_of_toInt_eq hexp,
    hmode hf, ?_⟩
  have hframe := eq_of_engineSide_eq (engineSide_convertWord hf hr)
  obtain ⟨-, hpos⟩ := convertWord_len (operandWord sign ef mf) hr
  obtain ⟨hraw, hs, he, hm⟩ := convertWord_operandWord sign ef mf hr
  rw [hraw, hs, he, hm, hpos, hdone] at hframe
  exact hframe

end Sys2Proof.Safety
end

section
/-! The engine's registers at the end of a conversion (R101 to R115): INTERVAL is the last phase that writes them, and for
an operand of the engine everything behind INTERVAL is reached through it. -/

namespace Sys2Proof.Safety

open Sys2Proof.Machine
open Sys2Proof.Machine.Reference (classOf operandC operandQ operandIrr operandFast decimalResult engine trace)

variable {s u : State} {w : Word}

/-! The operands of the engine. -/

theorem ne_zero_of_engine (hw : classOf w = .subnormal ∨ classOf w = .normalEngine) : classOf w ≠ .zero := by
  obtain h | h := hw <;> rw [h] <;> decide

theorem ne_infnan_of_engine (hw : classOf w = .subnormal ∨ classOf w = .normalEngine) : classOf w ≠ .infnan := by
  obtain h | h := hw <;> rw [h] <;> decide

theorem operandFast_of_engine (hw : classOf w = .subnormal ∨ classOf w = .normalEngine) : operandFast w = false := by
  obtain ⟨-, hc⟩ | ⟨hf, -⟩ := classOf_of_operand (ne_zero_of_engine hw) (ne_infnan_of_engine hw)
  · rw [hc] at hw
    exact absurd hw (by decide)
  · exact hf

theorem engineOperand_of_engine (hw : classOf w = .subnormal ∨ classOf w = .normalEngine) :
    EngineOperand (operandC w) (operandQ w) (operandIrr w) :=
  engineOperand_of_classOf (ne_zero_of_engine hw) (ne_infnan_of_engine hw)

theorem decimalResult_of_engine (hw : classOf w = .subnormal ∨ classOf w = .normalEngine) :
    decimalResult w = engine (operandC w) (operandQ w) (operandIrr w) :=
  if_neg (by simp [operandFast_of_engine hw])

/-! The host's actions. -/

/-- No phase rule writes the host's pending actions. -/
theorem phaseRule_host (s : State) : (phaseRule s).host = s.host := by
  unfold phaseRule
  cases s.phase with
  | idle | done => obtain ⟨-, e⟩ | ⟨-, e⟩ := handshake_cases s <;> exact (congrArg State.host e :)
  | decode => obtain ⟨_, _, _, _, _, e⟩ := ruleDecode_writes s; exact (congrArg State.host e :)
  | signw => obtain ⟨_, _, _, _, _, _, e⟩ := ruleSignw_writes s; exact (congrArg State.host e :)
  | lut => obtain ⟨_, _, _, _, e⟩ := ruleLut_writes s; exact (congrArg State.host e :)
  | shorter => obtain ⟨_, _, _, e⟩ := ruleShorter_writes s; exact (congrArg State.host e :)
  | direct => obtain ⟨_, _, _, e⟩ := ruleDirect_writes s; exact (congrArg State.host e :)
  | digits => obtain ⟨_, _, _, _, e⟩ := ruleDigits_writes s; exact (congrArg State.host e :)
  | emit => obtain ⟨_, _, _, _, _, _, _, e⟩ := ruleEmit_writes s; exact (congrArg State.host e :)
  | zero | normal | subnormal | fastint | bounds | expk | shifth | mull | mulc | mulr | interval | tie | layout | fault =>
    rfl

theorem convertWord_host (w : Word) (hr : s.ready = true) : (convertWord w s).host = s.host :=
  convertWord_induction (P := fun t => t.host = s.host) hr (phaseRule_host (beginStep ⟨false, true, w⟩ s))
    fun u _ _ h => (phaseRule_host (beginStep (Ports.quiet u) u)).trans h

/-! The registers of BOUNDS to INTERVAL. -/

/-- The registers that BOUNDS to INTERVAL write hold what `engine` computes for the word (R115). -/
def EngineValues (w : Word) (s : State) : Prop :=
  let r := trace (operandC w) (operandQ w) (operandIrr w)
  s.irr = BitVec.ofBool (operandIrr w) ∧ s.cbl.toNat = r.cbl ∧ s.cb.toNat = r.cb ∧ s.cbr.toNat = r.cbr ∧
    s.k.toInt = r.k ∧ (s.h.toNat : ℤ) = r.h ∧ s.g.toNat = r.g ∧ s.vbl.toNat = r.vbl ∧ s.vb.toNat = r.vb ∧
    s.vbr.toNat = r.vbr ∧ s.lower.toNat = r.lower ∧ s.upper.toNat = r.upper ∧ s.sReg.toNat = r.s

/-- These registers are among those that `engineSide` keeps. -/
theorem engineValues_engineSide (w : Word) (s : State) : EngineValues w (engineSide s) ↔ EngineValues w s := Iff.rfl

/-- R111: INTERVAL completes them. -/
theorem engineValues_ruleInterval (h : LookedUp s) (hl : s.vbl.toNat = (traceOf s).vbl)
    (hv : s.vb.toNat = (traceOf s).vb) (hr : s.vbr.toNat = (traceOf s).vbr) : EngineValues s.raw (ruleInterval s) := by
  obtain ⟨-, -, hlo, hup, hS⟩ := intervalled_ruleInterval h hl hv hr
  obtain ⟨⟨⟨⟨-, hirr, hcbl, hcb, hcbr⟩, hk⟩, hh⟩, hg⟩ := h
  exact ⟨hirr, hcbl, hcb, hcbr, hk, hh, hg, hl, hv, hr, hlo, hup, hS⟩

theorem engineValues_of_interval (hu : Converting w u) (hp : u.phase = .interval) : EngineValues w (quietStep u) := by
  have hq : quietStep u = ruleInterval (beginStep (Ports.quiet u) u) := Host.Outcome.next.inj (next_quietStep hp)
  have hinv := hu.inv
  rw [PhaseInv, hp] at hinv
  obtain ⟨hg, hl, hv, hr⟩ := hinv
  rw [hq, ← hu.raw]
  exact engineValues_ruleInterval (s := beginStep (Ports.quiet u) u) hg hl hv hr

/-- The phases behind INTERVAL (R72: the codes from 15 on) write none of them. -/
theorem engineSide_phaseRule_past_interval (h : 15 ≤ s.phase.code.toNat) : engineSide (phaseRule s) = engineSide s := by
  by_cases h17 : s.phase.code.toNat ≤ 17
  · unfold phaseRule
    cases hp : s.phase <;> rw [hp] at h h17
    case shorter => obtain ⟨_, _, _, e⟩ := ruleShorter_writes s; exact (congrArg engineSide e :)
    case direct => obtain ⟨_, _, _, e⟩ := ruleDirect_writes s; exact (congrArg engineSide e :)
    case tie => rfl
    case digits | layout | emit | done | fault => exact absurd h17 (by decide)
    all_goals exact absurd h (by decide)
  · exact engineSide_phaseRule fun hcode => h17 hcode.2

/-- A phase behind INTERVAL follows INTERVAL or another such phase, but on the paths of the operands that do not go
through the engine (R74). -/
theorem phase_of_successor_past_interval {p : Ports} (hp : p.rst = false) (hb : s.busy = true)
    (hf : successor p s ≠ .fault) (h : 15 ≤ (successor p s).code.toNat) :
    s.phase = .interval ∨ 15 ≤ s.phase.code.toNat ∨ s.phase = .fastint ∨ s.phase = .zero ∨
      (s.phase = .decode ∧ s.raw.toNat / 2 ^ 23 % 256 = 255) := by
  obtain ⟨hni, -⟩ := (busy_iff s).mp hb
  unfold successor at h hf
  rw [hp, if_neg Bool.false_ne_true] at h hf
  cases hph : s.phase <;> rw [hph] at h hf
  case idle => exact absurd hph hni
  case interval | fastint | zero => simp
  case decode =>
    dsimp only at h
    split_ifs at h with hi
    · exact .inr (.inr (.inr (.inr ⟨rfl, hi⟩)))
    · exact absurd h (by decide)
  case lut =>
    dsimp only at h hf
    split_ifs at h hf
    · exact absurd h (by decide)
    · exact absurd rfl hf
  case signw | normal => dsimp only at h; split_ifs at h <;> exact absurd h (by decide)
  case subnormal | bounds | expk | shifth | mull | mulc | mulr => dsimp only at h; exact absurd h (by decide)
  all_goals exact .inr (.inl (by decide))

/-- An operand of the engine has its values in the registers from INTERVAL to the end of its conversion. -/
theorem convertWord_engineValues (hw : classOf w = .subnormal ∨ classOf w = .normalEngine) (hr : s.ready = true) :
    EngineValues w (convertWord w s) := by
  obtain ⟨-, hdone⟩ := convertWord_steps w hr
  refine convertWord_induction (P := fun t => 15 ≤ t.phase.code.toNat → EngineValues w t) hr ?_ (fun u hu hb ih h => ?_)
    (by rw [hdone]; decide)
  · rw [requestStep_of_ready w hr]
    exact fun h => absurd h (by decide : ¬ 15 ≤ Phase.decode.code.toNat)
  have hnf : successor (Ports.quiet u) u ≠ .fault := fun hf => by
    have hinv := hu.quietStep.inv
    rwa [PhaseInv, quietStep_phase, hf] at hinv
  have hinv := hu.inv
  rw [PhaseInv] at hinv
  rw [quietStep_phase] at h
  obtain hp | h15 | hp | hp | ⟨-, hx⟩ := phase_of_successor_past_interval rfl hb hnf h
  · exact engineValues_of_interval hu hp
  · have hkeep : engineSide (quietStep u) = engineSide u :=
      engineSide_phaseRule_past_interval (s := beginStep (Ports.quiet u) u) h15
    rw [← engineValues_engineSide, hkeep]
    exact ih h15
  · rw [hp, hu.raw, operandFast_of_engine hw] at hinv
    exact absurd hinv.2 Bool.false_ne_true
  · rw [hp, hu.raw] at hinv
    exact absurd hinv.2 (ne_zero_of_engine hw)
  · exact absurd ((classOf_eq_infnan_iff_toNat w).mpr (hu.raw ▸ hx)) (ne_infnan_of_engine hw)

/-- Settles O42: the operand stays from its assembly on, the engine's registers from INTERVAL on, the result from the
decision on, and no step of a conversion writes the host's actions, FAULT or CAUSE. -/
theorem engineConversionLeavesTheEnginesValues : Obligations.EngineConversionLeavesTheEnginesValues := by
  intro w s hr hw
  obtain ⟨-, hdone⟩ := convertWord_steps w hr
  obtain ⟨hC, hQ⟩ := convertWord_operand (ne_zero_of_engine hw) (ne_infnan_of_engine hw) hr
  obtain ⟨hirr, hcbl, hcb, hcbr, hk, hh, hg, hl, hv, hvr, hlo, hup, hS⟩ := convertWord_engineValues hw hr
  obtain ⟨hsig, hexp, -⟩ := convertWord_result (ne_zero_of_engine hw) (ne_infnan_of_engine hw) hr
  rw [decimalResult_of_engine hw] at hsig hexp
  exact ⟨convertWord w s, exec_decodeOperand_eq w s, (done_iff _).mpr hdone, hC, hQ, hirr, hcbl, hcb, hcbr, hk, hh, hg, hl,
    hv, hvr, hlo, hup, hS, hsig, hexp, convertWord_host w hr, convertWord_fault_cause w hr⟩

end Sys2Proof.Safety
end

section
/-! ContractFault is never taken (R104, R105, R121): the ranges of LUT's operands, and the invariant along every run from
reset. -/

namespace Sys2Proof.Safety

open Sys2Proof.Machine
open Sys2Proof.Machine.Reference (classOf operandC operandQ operandIrr trace)

/-- Settles O16. -/
theorem decimalExponentStaysInTheTable : Obligations.DecimalExponentStaysInTheTable := by
  intro w hw
  have hk := (engineOperand_of_engine hw).k_range
  dsimp only
  omega

/-- A state that meets the invariant has taken no ContractFault. -/
theorem not_fault_of_runInvariant {s : State} (h : RunInvariant s) : s.phase ≠ .fault ∧ s.fault = 0 := by
  obtain ⟨-, hf, -, hinv⟩ := h
  refine ⟨fun hp => ?_, hf⟩
  rwa [PhaseInv, hp] at hinv

/-- A run of one step more is a step that answers a next state, and the run from it. -/
theorem run_succ_next {M : Host.Core} {n : ℕ} {s t : M.State} (h : M.run (n + 1) s = .next t) :
    ∃ u, M.step s = .next u ∧ M.run n u = .next t := by
  rw [Host.Core.run] at h
  split at h
  next u hu => exact ⟨u, hu, h⟩
  all_goals cases h

/-- Every run from a state that meets the invariant stays in it. -/
theorem runInvariant_run (n : ℕ) {s t : State} (h : RunInvariant s) (ht : core.run n s = .next t) : RunInvariant t := by
  induction n generalizing s with
  | zero =>
    obtain rfl : s = t := Host.Outcome.next.inj ht
    exact h
  | succ n ih =>
    obtain ⟨u, hu, hrun⟩ := run_succ_next (M := core) ht
    exact ih (everyStepKeepsTheInvariant s u h hu) hrun

/-- Settles O60: the ranges of K and H, one step of the invariant, and all of its steps from reset. -/
theorem contractFaultIsUnreachable : Obligations.ContractFaultIsUnreachable := by
  refine ⟨fun w hw => ?_, fun s t h ht => ?_, fun acts n t ht => ?_⟩
  · have hk := (engineOperand_of_engine hw).k_range
    have hh := (engineOperand_of_engine hw).h_range
    dsimp only
    omega
  · exact not_fault_of_runInvariant (everyStepKeepsTheInvariant s t h ht)
  · exact not_fault_of_runInvariant (runInvariant_run n (runInvariant_host acts resetMeetsTheInvariant) ht)

end Sys2Proof.Safety
end

section
/-! The decimal exponent and the shift (R102, R105): the fixed-point constants give the exact floors for every Q of R16,
which is a comparison of natural numbers for each of its 254 values. -/

namespace Sys2Proof.Machine

/-- `k` is the floor of the decimal logarithm of `m 2^r`. -/
def isDecimalExp (m : ℕ) (r k : ℤ) : Bool := pow10LeScaled m r k && !pow10LeScaled m r (k + 1)

theorem isDecimalExp_iff (m : ℕ) (r k : ℤ) :
    isDecimalExp m r k = true ↔ (10 : ℚ) ^ k ≤ m * 2 ^ r ∧ (m : ℚ) * 2 ^ r < 10 ^ (k + 1) := by
  rw [isDecimalExp, Bool.and_eq_true, Bool.not_eq_true', ← Bool.not_eq_true, pow10LeScaled_iff, pow10LeScaled_iff, not_le]

/-- R102's K for each of the 254 exponents Q, of `2^Q` and of `3 2^(Q-2)`. -/
theorem decimalExp_table : ∀ i < 254,
    (isDecimalExp 1 ((i : ℕ) - 149) (decimalExp ((i : ℕ) - 149) 0) &&
      isDecimalExp 3 ((i : ℕ) - 149 - 2) (decimalExp ((i : ℕ) - 149) 1)) = true := by
  decide +kernel

/-- An exponent of R16's range by its place in that range. -/
theorem exists_exponent_index {q : ℤ} (h0 : -149 ≤ q) (h1 : q ≤ 104) : ∃ i < 254, q = (i : ℕ) - 149 :=
  ⟨(q + 149).toNat, by omega, by omega⟩

/-- R102 for a regular operand. -/
theorem decimalExp_regular_bounds {q : ℤ} (h0 : -149 ≤ q) (h1 : q ≤ 104) :
    (10 : ℚ) ^ decimalExp q 0 ≤ 2 ^ q ∧ (2 : ℚ) ^ q < 10 ^ (decimalExp q 0 + 1) := by
  obtain ⟨i, hi, rfl⟩ := exists_exponent_index h0 h1
  have h := (Bool.and_eq_true_iff.mp (decimalExp_table i hi)).1
  rw [isDecimalExp_iff, Nat.cast_one, one_mul] at h
  exact h

/-- R102 and R103 for an irregular operand. -/
theorem decimalExp_irregular_bounds {q : ℤ} (h0 : -149 ≤ q) (h1 : q ≤ 104) :
    (10 : ℚ) ^ decimalExp q 1 ≤ 3 / 4 * 2 ^ q ∧ 3 / 4 * (2 : ℚ) ^ q < 10 ^ (decimalExp q 1 + 1) := by
  have hquarter : (3 : ℕ) * (2 : ℚ) ^ (q - 2) = 3 / 4 * 2 ^ q := by
    rw [zpow_sub₀ two_ne_zero]
    norm_num
    ring
  obtain ⟨i, hi, rfl⟩ := exists_exponent_index h0 h1
  have h := (Bool.and_eq_true_iff.mp (decimalExp_table i hi)).2
  rw [isDecimalExp_iff, hquarter] at h
  exact h

/-- The multiply and shift of R102. -/
theorem decimalExp_eq (q : ℤ) (irr : BitVec 1) :
    decimalExp q irr.toNat = (q * 1262611 - (if irr = 1 then 524031 else 0)) / 2 ^ 22 := by
  obtain rfl | rfl := BitVec.eq_zero_or_eq_one irr <;> rfl

/-- K fits its register, regular or irregular. -/
theorem ruleExpk_k {s : State} (h0 : -149 ≤ s.q.toInt) (h1 : s.q.toInt ≤ 104) :
    (ruleExpk s).k.toInt = decimalExp s.q.toInt s.irr.toNat := by
  simp only [ruleExpk]
  refine fitS_toInt ?_ ?_ <;> rw [decimalExp_eq] <;> split_ifs <;> omega

/-- Settles O15: K is the multiply-and-shift value, which the table of the 254 exponents shows to be the exact floor. -/
theorem expkIsTheExactDecimalExponent : Obligations.ExpkIsTheExactDecimalExponent := by
  intro s h0 h1
  have hk := ruleExpk_k h0 h1
  refine ⟨ruleExpk s, exec_expk s, hk.trans (decimalExp_eq _ _), fun h => ?_, fun h => ?_, rfl, fun _ => rfl⟩
  · rw [hk, h]
    exact decimalExp_regular_bounds h0 h1
  · rw [hk, h]
    exact decimalExp_irregular_bounds h0 h1

/-- The K of R105's operands is EXPK's, for a regular or an irregular operand. -/
theorem exists_decimalExp_eq {q k : ℤ}
    (h : k = q * 1262611 / 2 ^ 22 ∨ (-148 ≤ q ∧ k = (q * 1262611 - 524031) / 2 ^ 22)) :
    ∃ irr < 2, k = decimalExp q irr ∧ (irr = 1 → -148 ≤ q) := by
  obtain h | ⟨hq, h⟩ := h
  · exact ⟨0, by decide, by rw [h, decimalExp, if_neg (by decide), sub_zero]; rfl, fun h => absurd h (by decide)⟩
  · exact ⟨1, by decide, h, fun _ => hq⟩

/-- R105's H is in 1..4 for the K of its Q. -/
theorem alignShift_range {q k : ℤ} (h0 : -149 ≤ q) (h1 : q ≤ 104)
    (hk : k = q * 1262611 / 2 ^ 22 ∨ (-148 ≤ q ∧ k = (q * 1262611 - 524031) / 2 ^ 22)) :
    1 ≤ alignShift q k ∧ alignShift q k ≤ 4 := by
  obtain ⟨irr, hirr, rfl, hq⟩ := exists_decimalExp_eq hk
  obtain ⟨i, hi, rfl⟩ := exists_exponent_index h0 h1
  exact alignShift_decimalExp_range i hi irr hirr fun h => by
    have := hq h
    omega

/-- The multiply and shift of R105 is the floor of the binary logarithm of a power of ten in the table's range (R41). -/
theorem log2_pow10_bounds {e : ℤ} (h0 : -31 ≤ e) (h1 : e ≤ 45) :
    (2 : ℚ) ^ (e * 1741647 / 2 ^ 19) ≤ 10 ^ e ∧ (10 : ℚ) ^ e < 2 ^ (e * 1741647 / 2 ^ 19 + 1) := by
  obtain ⟨hexp, -⟩ := pow10_entry h0 h1
  have h := two_zpow_entryExp_bounds hexp
  rwa [entryExp, sub_add_cancel, show e * 1741647 / 2 ^ 19 - 63 + 64 = e * 1741647 / 2 ^ 19 + 1 by ring] at h

/-- Settles O17: -K is in the table's range, where f is the exact floor, and H in 1..4 fits its register. -/
theorem shifthAlignsWithFloor : Obligations.ShifthAlignsWithFloor := by
  intro s h0 h1 hk
  obtain ⟨hlo, hhi⟩ := log2_pow10_bounds (e := -s.k.toInt) (by omega) (by omega)
  obtain ⟨hh1, hh4⟩ := alignShift_range h0 h1 hk
  have hfit : ((ruleShifth s).h.toNat : ℤ) = alignShift s.q.toInt s.k.toInt := by
    simp only [ruleShifth]
    exact fitU_toNat (by omega) (by omega)
  exact ⟨hlo, hhi, ruleShifth s, exec_shifth s, hfit, by omega, by omega, rfl, fun _ => rfl⟩

end Sys2Proof.Machine
end

section
/-! The engine's rules one by one (R101, R106 to R114): the register each writes, and the phase that follows. -/

namespace Sys2Proof.Safety

open Sys2Proof.Machine

/-! BOUNDS, LUT, the multipliers and INTERVAL. -/

theorem isIrregular_iff (ef : BitVec 8) (mf : BitVec 23) : isIrregular ef mf = true ↔ mf = 0 ∧ 1 < ef.toNat := by
  simp [isIrregular]

/-- R101: the flag that BOUNDS writes. -/
theorem ruleBounds_irr (s : State) :
    (ruleBounds s).irr.toNat = if isIrregular s.ef s.mf then 1 else 0 := by
  simp only [ruleBounds]
  cases isIrregular s.ef s.mf <;> rfl

/-- Settles O14: for C >= 1 the three boundaries fit their registers. -/
theorem boundsScalesTheNeighbours : Obligations.BoundsScalesTheNeighbours := by
  intro s hc
  have hlt := s.c.isLt
  have hirr := ruleBounds_irr s
  have hle : (ruleBounds s).irr.toNat ≤ 1 := by rw [hirr]; split <;> decide
  have hcbl : ((ruleBounds s).cbl.toNat : ℤ) = 4 * s.c.toNat - 2 + (ruleBounds s).irr.toNat := by
    rw [ruleBounds_cbl, ← hirr]
    exact fitU_toNat (by omega) (by omega)
  have hcb : ((ruleBounds s).cb.toNat : ℤ) = 4 * s.c.toNat := by
    rw [ruleBounds_cb]
    exact fitU_toNat (by omega) (by omega)
  have hcbr : ((ruleBounds s).cbr.toNat : ℤ) = 4 * s.c.toNat + 2 := by
    rw [ruleBounds_cbr]
    exact fitU_toNat (by omega) (by omega)
  exact ⟨ruleBounds s, exec_bounds s, hirr.trans (if_congr (isIrregular_iff _ _) rfl rfl), by omega, by omega, by omega,
    by simp only [ruleBounds], fun _ => rfl⟩

/-- Settles O18: the three outcomes of LUT, whose conditions exclude each other. -/
theorem lutReadsOrRaisesContractFault : Obligations.LutReadsOrRaisesContractFault := by
  intro s
  rw [exec_lut]
  refine ⟨fun hk => ?_, fun h0 h1 hh => ?_, fun h0 h1 hh0 hh1 => ?_, fun t ht => ?_⟩
  · obtain ⟨-, e⟩ | ⟨_, _, -⟩ | ⟨_, _, -⟩ := ruleLut_cases s
    · exact congrArg _ e
    all_goals omega
  · obtain ⟨_, -⟩ | ⟨-, -, -, e⟩ | ⟨-, -, _, _, -⟩ := ruleLut_cases s
    · omega
    · exact congrArg _ e
    · omega
  · obtain ⟨_, -⟩ | ⟨-, -, _, -⟩ | ⟨-, -, -, -, e⟩ := ruleLut_cases s
    · omega
    · omega
    · exact congrArg _ e
  · obtain ⟨_, _, _, _, e⟩ := ruleLut_writes s
    obtain rfl := Host.Outcome.next.inj ht
    rw [e]
    exact fun _ => rfl

/-- R107: a scaled boundary is not more than the shifted boundary, so it fits its register. -/
theorem fitU_scaled_of_lt {s : State} {cx : BitVec 26} (x : OpenValue) (h : cx.toNat * 2 ^ s.h.toNat < 2 ^ 30) :
    (fitU 32 (scaled s cx) x s).toNat = rop s.g.toNat (cx.toNat * 2 ^ s.h.toNat) := by
  have hle : scaled s cx ≤ cx.toNat * 2 ^ s.h.toNat := rop_le _ s.g.isLt
  exact Int.ofNat_inj.mp (fitU_toNat (by omega) (by omega))

/-- Settles O21: the register takes `rop`, which is the high half with its bit 0 forced. -/
theorem multipliersRoundToOdd : Obligations.MultipliersRoundToOdd := by
  intro s
  refine ⟨fun h => ⟨ruleMull s, exec_mull s, ?_, by simp only [ruleMull], fun _ => rfl⟩,
    fun h => ⟨ruleMulc s, exec_mulc s, ?_, by simp only [ruleMulc], fun _ => rfl⟩,
    fun h => ⟨ruleMulr s, exec_mulr s, ?_, by simp only [ruleMulr], fun _ => rfl⟩⟩
  · rw [ruleMull_vbl, fitU_scaled_of_lt .vbl h, rop_cases]
  · rw [ruleMulc_vb, fitU_scaled_of_lt .vb h, rop_cases]
  · rw [ruleMulr_vbr, fitU_scaled_of_lt .vbr h, rop_cases]

/-- Settles O22: the three values fit their registers. -/
theorem intervalClosesForEvenSignificands : Obligations.IntervalClosesForEvenSignificands := by
  intro s hl hr hv
  have hvbr := s.vbr.isLt
  have hlower : ((ruleInterval s).lower.toNat : ℤ) = s.vbl.toNat + (s.c.toNat % 2 : ℤ) := by
    rw [ruleInterval_lower]
    exact fitU_toNat (by omega) (by omega)
  have hupper : ((ruleInterval s).upper.toNat : ℤ) = s.vbr.toNat - (s.c.toNat % 2 : ℤ) := by
    rw [ruleInterval_upper]
    exact fitU_toNat (by omega) (by omega)
  have hs : ((ruleInterval s).sReg.toNat : ℤ) = (s.vb.toNat / 4 : ℕ) := by
    rw [ruleInterval_sReg]
    exact fitU_toNat (by omega) (by omega)
  exact ⟨ruleInterval s, exec_interval s, by omega, by omega, by omega, by simp only [ruleInterval], fun _ => rfl⟩

/-! SHORTER, DIRECT and TIE. -/

/-- SHORTER decides for the one shorter candidate inside: SIG and EXP for a K of R104's range, and the phase. -/
theorem ruleShorter_of_one_inside {s : State}
    (h : ¬ (s.lower.toNat ≤ 40 * (s.sReg.toNat / 10) ↔ 40 * (s.sReg.toNat / 10) + 40 ≤ s.upper.toNat)) :
    (ruleShorter s).sig.toNat =
        s.sReg.toNat / 10 + (if 40 * (s.sReg.toNat / 10) + 40 ≤ s.upper.toNat then 1 else 0) ∧
      (s.k.toInt ≤ 31 → (ruleShorter s).exp.toInt = s.k.toInt + 1) ∧
      ruleShorter s = { s with sig := (ruleShorter s).sig, exp := (ruleShorter s).exp, phase := .digits } := by
  have hs := s.sReg.isLt
  have hk := s.k.le_toInt
  rw [← shorterLow_eq_shorterHigh_iff] at h
  obtain ⟨-, e⟩ | ⟨heq, -⟩ := ruleShorter_cases s
  · rw [e]
    dsimp only
    rw [fitU_candidate _ (by omega)]
    refine ⟨?_, fun hk31 => fitS_toInt (by omega) (by omega), rfl⟩
    simp only [shorterHigh, Bool.toNat, Bool.cond_decide]
  · exact absurd heq h

theorem ruleShorter_of_not_one_inside {s : State}
    (h : s.lower.toNat ≤ 40 * (s.sReg.toNat / 10) ↔ 40 * (s.sReg.toNat / 10) + 40 ≤ s.upper.toNat) :
    ruleShorter s = { s with phase := .direct } := by
  rw [← shorterLow_eq_shorterHigh_iff] at h
  obtain ⟨hne, -⟩ | ⟨-, e⟩ := ruleShorter_cases s
  · exact absurd h hne
  · exact e

/-- DIRECT decides for the one direct candidate inside. -/
theorem ruleDirect_of_one_inside {s : State}
    (h : ¬ (s.lower.toNat ≤ 4 * s.sReg.toNat ↔ 4 * s.sReg.toNat + 4 ≤ s.upper.toNat)) :
    (ruleDirect s).sig.toNat = s.sReg.toNat + (if 4 * s.sReg.toNat + 4 ≤ s.upper.toNat then 1 else 0) ∧
      ruleDirect s = { s with sig := (ruleDirect s).sig, exp := s.k, phase := .digits } := by
  have hs := s.sReg.isLt
  rw [← directLow_eq_directHigh_iff] at h
  obtain ⟨-, e⟩ | ⟨heq, -⟩ := ruleDirect_cases s
  · rw [e]
    dsimp only
    rw [fitU_candidate _ (by omega)]
    refine ⟨?_, rfl⟩
    simp only [directHigh, Bool.toNat, Bool.cond_decide]
  · exact absurd heq h

theorem ruleDirect_of_not_one_inside {s : State}
    (h : s.lower.toNat ≤ 4 * s.sReg.toNat ↔ 4 * s.sReg.toNat + 4 ≤ s.upper.toNat) :
    ruleDirect s = { s with phase := .tie } := by
  rw [← directLow_eq_directHigh_iff] at h
  obtain ⟨hne, -⟩ | ⟨-, e⟩ := ruleDirect_cases s
  · exact absurd h hne
  · exact e

/-- R114's test on VB and S. -/
theorem roundUp_iff (vb s : ℕ) : roundUp vb s = true ↔ 4 * s + 2 < vb ∨ (vb = 4 * s + 2 ∧ s % 2 = 1) := by
  simp [roundUp]

/-- TIE takes the nearest candidate (R114). -/
theorem ruleTie_sig (s : State) :
    (ruleTie s).sig.toNat = s.sReg.toNat +
      (if 4 * s.sReg.toNat + 2 < s.vb.toNat ∨ (s.vb.toNat = 4 * s.sReg.toNat + 2 ∧ s.sReg.toNat % 2 = 1) then 1
      else 0) := by
  simp only [ruleTie, ← roundUp_iff]
  refine (fitU_candidate _ s.sReg.isLt).trans ?_
  cases roundUp s.vb.toNat s.sReg.toNat <;> rfl

/-- Settles O23. -/
theorem shorterTakesTheOneCandidateInside : Obligations.ShorterTakesTheOneCandidateInside := by
  intro s hk
  refine ⟨fun ⟨hup, hwp⟩ => ?_, fun ⟨hup, hwp⟩ => ?_, fun h => ?_⟩
  · obtain ⟨hsig, hexp, e⟩ := ruleShorter_of_one_inside fun h => hwp (h.mp hup)
    rw [if_neg hwp] at hsig
    exact ⟨ruleShorter s, exec_shorter s, hsig, hexp hk, e, fun _ => by rw [e]⟩
  · obtain ⟨hsig, hexp, e⟩ := ruleShorter_of_one_inside fun h => hup (h.mpr hwp)
    rw [if_pos hwp] at hsig
    exact ⟨ruleShorter s, exec_shorter s, hsig, hexp hk, e, fun _ => by rw [e]⟩
  · exact congrArg Host.Outcome.next (ruleShorter_of_not_one_inside h)

/-- Settles O24. -/
theorem directTakesTheOneCandidateInside : Obligations.DirectTakesTheOneCandidateInside := by
  intro s
  refine ⟨fun ⟨hu, hw⟩ => ?_, fun ⟨hu, hw⟩ => ?_, fun h => ?_⟩
  · obtain ⟨hsig, e⟩ := ruleDirect_of_one_inside fun h => hw (h.mp hu)
    rw [if_neg hw] at hsig
    exact ⟨ruleDirect s, exec_direct s, hsig, e, fun _ => by rw [e]⟩
  · obtain ⟨hsig, e⟩ := ruleDirect_of_one_inside fun h => hu (h.mpr hw)
    rw [if_pos hw] at hsig
    exact ⟨ruleDirect s, exec_direct s, hsig, e, fun _ => by rw [e]⟩
  · exact congrArg Host.Outcome.next (ruleDirect_of_not_one_inside h)

/-- Settles O25: on equality an odd S is rounded up to the even S + 1. -/
theorem tieBreaksToNearestThenEven : Obligations.TieBreaksToNearestThenEven := by
  intro s
  have hsig := ruleTie_sig s
  refine ⟨ruleTie s, exec_tie s, hsig, fun heq => ?_, by simp only [ruleTie], fun _ => rfl⟩
  rw [hsig]
  split <;> omega

/-- Settles O26: the decimal below VB is not above UPPER and the one above VB is not below LOWER, so the one inside test
that is made suffices. -/
theorem chosenDecimalIsInsideTheInterval : Obligations.ChosenDecimalIsInsideTheInterval := by
  intro s t hS hlo hup
  refine ⟨fun ht hph => ?_, fun ht hph => ?_, fun hu hw ht => ?_⟩ <;> obtain rfl := Host.Outcome.next.inj ht
  · by_cases h : s.lower.toNat ≤ 40 * (s.sReg.toNat / 10) ↔ 40 * (s.sReg.toNat / 10) + 40 ≤ s.upper.toNat
    · rw [ruleShorter_of_not_one_inside h] at hph
      cases hph
    · rw [(ruleShorter_of_one_inside h).1]
      split <;> omega
  · by_cases h : s.lower.toNat ≤ 4 * s.sReg.toNat ↔ 4 * s.sReg.toNat + 4 ≤ s.upper.toNat
    · rw [ruleDirect_of_not_one_inside h] at hph
      cases hph
    · rw [(ruleDirect_of_one_inside h).1]
      split <;> omega
  · rw [ruleTie_sig]
    split <;> omega

end Sys2Proof.Safety
end

section
/-! The decimal digits of a number by place (R130): how many there are, which stands where, and which remain without the
trailing zeros. -/

namespace Sys2Proof.Machine

open Sys2Proof.Machine.Reference

theorem decimal_length (v : ℕ) : (decimal v).length = (Nat.digits 10 v).length := by simp [decimal]

/-- The number of digits is the one power-of-ten interval that holds the number. -/
theorem decimal_length_bounds {v : ℕ} (h : 0 < v) :
    10 ^ ((decimal v).length - 1) ≤ v ∧ v < 10 ^ (decimal v).length := by
  have hpos := decimal_length_pos h
  have hlow := Nat.base_pow_length_digits_le 10 v (by decide) (by omega)
  rw [← decimal_length, ← Nat.sub_add_cancel hpos, Nat.pow_succ'] at hlow
  rw [decimal_length v] at hlow ⊢
  exact ⟨Nat.le_of_mul_le_mul_left hlow (by decide), Nat.lt_base_pow_length_digits (by decide)⟩

theorem decimal_getElem? {v j : ℕ} (hj : j < (decimal v).length) :
    (decimal v)[j]? = some (chr (v / 10 ^ ((decimal v).length - 1 - j) % 10)) := by
  rw [decimal_length] at hj ⊢
  rw [decimal, List.getElem?_map, List.getElem?_reverse hj, ← Nat.getD_digits v _ (by decide),
    List.getD_eq_getElem _ _ (by omega), List.getElem?_eq_getElem]
  rfl

/-- A factor of ten is a trailing "0". -/
theorem decimal_pow_ten_mul (k : ℕ) {w : ℕ} (h : 0 < w) : decimal (10 ^ k * w) = decimal w ++ List.replicate k 0x30 := by
  rw [decimal, Nat.digits_base_pow_mul (by decide) h, List.reverse_append, List.map_append, List.reverse_replicate,
    List.map_replicate]
  rfl

theorem trimZeros_append_replicate (ds : List Byte) (k : ℕ) :
    trimZeros (ds ++ List.replicate k 0x30) = trimZeros ds := by
  rw [trimZeros, List.reverse_append, List.reverse_replicate, List.dropWhile_append_of_pos (by simp), trimZeros]

/-- A last digit other than 0 is not trimmed. -/
theorem trimZeros_decimal_of_not_dvd {w : ℕ} (h : 0 < w) (hw : ¬ 10 ∣ w) : trimZeros (decimal w) = decimal w := by
  have hchr : chr (w % 10) ≠ 0x30 := chr_ne_zero (by omega) (by omega)
  rw [decimal_eq_append h, trimZeros, List.reverse_append, List.reverse_singleton, List.singleton_append,
    List.dropWhile_cons_of_neg (by simpa using hchr), List.reverse_cons, List.reverse_reverse]

/-- The digits of a number without the trailing zeros are the digits of the number without its factors of ten. -/
theorem exists_significant {v : ℕ} (h : 0 < v) : ∃ w k, 0 < w ∧ ¬ 10 ∣ w ∧ v = 10 ^ k * w ∧
    decimal v = decimal w ++ List.replicate k 0x30 ∧ trimZeros (decimal v) = decimal w := by
  obtain ⟨k, w, hw, rfl⟩ := Nat.exists_eq_pow_mul_and_not_dvd h.ne' 10 (by decide)
  have hpos : 0 < w := Nat.pos_of_mul_pos_left h
  have hdec := decimal_pow_ten_mul k hpos
  exact ⟨w, k, hpos, hw, rfl, hdec, by rw [hdec, trimZeros_append_replicate, trimZeros_decimal_of_not_dvd hpos hw]⟩

end Sys2Proof.Machine
end

section
/-! DIGITS (R130) and EMIT (R140). -/

namespace Sys2Proof.Safety

open Sys2Proof.Machine
open Sys2Proof.Machine.Reference (decimal trimZeros layout)

variable {s : State}

/-! What DIGITS writes. -/

theorem ruleDigits_n (h0 : 1 ≤ s.sig.toNat) (h1 : s.sig.toNat < 10 ^ 9) :
    (ruleDigits s).n.toNat = (decimal s.sig.toNat).length := by
  have hlen := decimal_length_le h1
  rw [ruleDigits_of_range h0 h1]
  exact Nat.mod_eq_of_lt (by omega)

theorem ruleDigits_nk (h0 : 1 ≤ s.sig.toNat) (h1 : s.sig.toNat < 10 ^ 9) :
    (ruleDigits s).nk.toNat = (trimZeros (decimal s.sig.toNat)).length := by
  have hlen := decimal_length_le h1
  have hkn := trimZeros_length_le (decimal s.sig.toNat)
  rw [ruleDigits_of_range h0 h1]
  exact Nat.mod_eq_of_lt (by omega)

theorem ruleDigits_dig (h0 : 1 ≤ s.sig.toNat) (h1 : s.sig.toNat < 10 ^ 9) {j : ℕ}
    (hj : j < (decimal s.sig.toNat).length) :
    (ruleDigits s).dig[9 - (decimal s.sig.toNat).length + j]? = (decimal s.sig.toNat)[j]? := by
  have hlen := decimal_length_le h1
  rw [ruleDigits_of_range h0 h1, ← Nat.sub_add_comm hlen]
  exact storeDigits_getElem? s.dig hlen hj

/-- The digits LAYOUT reads, at their places in DIG (R20). -/
theorem some_digit_eq {j : ℕ} (hn : s.n.toNat ≤ 9) (hj : j < s.n.toNat) :
    some (s.digit j) = s.dig[9 - s.n.toNat + j]? := by
  rw [digit_eq_getElem? hn hj, Nat.sub_add_comm hn]

/-- After DIGITS the digits `d[j]` are those of SIG. -/
theorem reads_ruleDigits (h0 : 1 ≤ s.sig.toNat) (h1 : s.sig.toNat < 10 ^ 9) :
    Reads (ruleDigits s).digit (decimal s.sig.toNat) := by
  intro j hj
  have hlen := decimal_length_le h1
  have hn := ruleDigits_n h0 h1
  rw [some_digit_eq (by omega) (by omega), hn, ruleDigits_dig h0 h1 hj]

/-- Settles O27: the counts and the characters are those of `decimal`, and NK counts the digits of SIG without its factors
of ten. -/
theorem digitsAreTheDecimalDigits : Obligations.DigitsAreTheDecimalDigits := by
  intro s h0 h1
  have hn1 := decimal_length_pos h0
  have hn9 := decimal_length_le h1
  obtain ⟨hlow, hup⟩ := decimal_length_bounds h0
  have hnk1 := trimZeros_decimal_length_pos h0
  have hnkn := trimZeros_length_le (decimal s.sig.toNat)
  obtain ⟨w, k, -, hw, hsig, hdec, htrim⟩ := exists_significant h0
  have hk : (decimal s.sig.toNat).length - (trimZeros (decimal s.sig.toNat)).length = k := by
    rw [htrim, hdec, List.length_append, List.length_replicate, Nat.add_sub_cancel_left]
  refine ⟨ruleDigits s, exec_digits s, ?_⟩
  rw [ruleDigits_n h0 h1, ruleDigits_nk h0 h1, hk]
  refine ⟨hn1, hn9, hlow, hup, fun j hj => ?_, hnk1, hnkn, ?_, ?_, ?_, ?_⟩
  · rw [ruleDigits_dig h0 h1 hj, decimal_getElem? hj, chr]
  · rw [hsig, Nat.mul_mod_right]
  · rw [hsig, Nat.mul_div_cancel_left w (by positivity)]
    omega
  · rw [ruleDigits_of_range h0 h1]
  · rw [ruleDigits_of_range h0 h1]
    exact fun _ => rfl

/-- Settles O36: EMIT is the emission of the byte of TXT, which is one MemWrite at POS. -/
theorem emitWritesTheNextByte : Obligations.EmitWritesTheNextByte := by
  intro s b hle hpos hb
  have hfit := fitU_toNat (w := 5) (v := s.pos.toNat + 1) (x := .pos) (s := s) (by omega) (by omega)
  have hread := read?_write_same s.out s.pos.toNat b
  have hother : SameOutExceptAt s.pos.toNat s (memWrite s.pos b s) := fun _ ha => read?_write_other s.out b ha
  refine ⟨emitByte b s, by rw [exec_emit, ruleEmit, bodyByte_eq_of_getElem? hle hb], ?_⟩
  obtain ⟨hlast, e⟩ | ⟨hmore, e⟩ := emitByte_cases b s <;> rw [e]
  · refine ⟨hread, hother, Int.ofNat_inj.mp hfit, (if_pos ?_).symm⟩
    rw [State.bodyIndex] at hlast
    omega
  · refine ⟨hread, hother, Int.ofNat_inj.mp hfit, (if_neg ?_).symm⟩
    rw [State.bodyIndex] at hmore
    omega

end Sys2Proof.Safety
end

section
/-! LAYOUT (R131 to R137): the layout each exponent selects, and what stands at each place of its text. -/

namespace Sys2Proof.Machine

variable {d : ℕ → Byte} {n nk : ℕ} {dpp : ℤ}

/-! R131's decision. -/

theorem layoutText_mode (d : ℕ → Byte) (n nk : ℕ) (dpp : ℤ) :
    (layoutText Config.encoder d n nk dpp).1 =
      if dpp - 1 < -6 ∨ 20 < dpp - 1 then .sci
      else if n ≤ dpp then .fixedInt else if 0 < dpp then .fixedFrac else .fixedSmall := by
  simp only [layoutText, isSci_encoder, apply_ite Prod.fst]

theorem layoutText_of_sci (h : dpp - 1 < -6 ∨ 20 < dpp - 1) :
    layoutText Config.encoder d n nk dpp = (.sci, sciText d nk (dpp - 1)) := by
  rw [layoutText, if_pos ((isSci_encoder _).mpr h)]

theorem layoutText_of_int (h : n ≤ dpp) (h21 : dpp ≤ 21) :
    layoutText Config.encoder d n nk dpp = (.fixedInt, intText d n dpp.toNat) := by
  rw [layoutText, if_neg (by rw [isSci_encoder]; omega), if_pos h]

theorem layoutText_of_frac (h0 : 0 < dpp) (h : dpp < n) (h21 : dpp ≤ 21) :
    layoutText Config.encoder d n nk dpp = (.fixedFrac, fracText d nk dpp.toNat) := by
  rw [layoutText, if_neg (by rw [isSci_encoder]; omega), if_neg (by omega), if_pos h0]

theorem layoutText_of_small (h : dpp ≤ 0) (hn : 0 < n) (h5 : -5 ≤ dpp) :
    layoutText Config.encoder d n nk dpp = (.fixedSmall, smallText d nk (-dpp).toNat) := by
  rw [layoutText, if_neg (by rw [isSci_encoder]; omega), if_neg (by omega), if_neg (by omega)]

/-! The texts by place. -/

theorem digitRun_getElem? (d : ℕ → Byte) {a b j : ℕ} (h : j < b - a) : (digitRun d a b)[j]? = some (d (a + j)) := by
  have hlt : j < (digitRun d a b).length := by rwa [digitRun_length]
  rw [List.getElem?_eq_getElem hlt, digitRun_getElem]

theorem intText_length (d : ℕ → Byte) {n dpp : ℕ} (h : n ≤ dpp) : (intText d n dpp).length = dpp := by
  simp [intText, digitRun_length, h]

theorem intText_digit (d : ℕ → Byte) {n j : ℕ} (dpp : ℕ) (h : j < n) : (intText d n dpp)[j]? = some (d j) := by
  rw [intText, List.getElem?_append_left (by simpa [digitRun_length] using h), digitRun_getElem? d (by omega), zero_add]

theorem intText_zero (d : ℕ → Byte) {n dpp j : ℕ} (hn : n ≤ j) (hj : j < dpp) : (intText d n dpp)[j]? = some 0x30 := by
  rw [intText, List.getElem?_append_right (by simpa [digitRun_length] using hn), digitRun_length,
    List.getElem?_replicate_of_lt (by omega)]

theorem fracText_length (d : ℕ → Byte) (nk dpp : ℕ) :
    (fracText d nk dpp).length = if dpp < nk then nk + 1 else dpp := by
  rw [fracText, List.length_append, digitRun_length]
  split
  · rw [List.length_cons, digitRun_length]
    omega
  · simp

theorem fracText_digit (d : ℕ → Byte) {j dpp : ℕ} (nk : ℕ) (h : j < dpp) : (fracText d nk dpp)[j]? = some (d j) := by
  rw [fracText, List.getElem?_append_left (by simpa [digitRun_length] using h), digitRun_getElem? d (by omega), zero_add]

theorem fracText_point (d : ℕ → Byte) {nk dpp : ℕ} (h : dpp < nk) : (fracText d nk dpp)[dpp]? = some 0x2E := by
  rw [fracText, if_pos h, List.getElem?_append_right (by simp [digitRun_length]), digitRun_length]
  simp

theorem fracText_fraction (d : ℕ → Byte) {nk dpp j : ℕ} (hd : dpp ≤ j) (hj : j < nk) :
    (fracText d nk dpp)[j + 1]? = some (d j) := by
  rw [fracText, if_pos (by omega), List.getElem?_append_right (by rw [digitRun_length]; omega), digitRun_length,
    show j + 1 - (dpp - 0) = j - dpp + 1 by omega, List.getElem?_cons_succ, digitRun_getElem? d (by omega),
    Nat.add_sub_cancel' hd]

theorem smallText_length (d : ℕ → Byte) (nk z : ℕ) : (smallText d nk z).length = 2 + z + nk := by
  simp [smallText, digitRun_length]
  omega

theorem smallText_zero (d : ℕ → Byte) {z j : ℕ} (nk : ℕ) (h : j < z) : (smallText d nk z)[2 + j]? = some 0x30 := by
  rw [smallText, List.append_assoc, List.getElem?_append_right (by simp),
    List.getElem?_append_left (by simpa using h)]
  simp [h]

theorem smallText_digit (d : ℕ → Byte) {nk j : ℕ} (z : ℕ) (h : j < nk) :
    (smallText d nk z)[2 + z + j]? = some (d j) := by
  have hlen : ([chrZeroCode, chrPointCode] ++ List.replicate z chrZeroCode).length = 2 + z := by simp; omega
  rw [smallText, List.getElem?_append_right (by omega), hlen, Nat.add_sub_cancel_left, digitRun_getElem? d (by omega),
    zero_add]

/-- The first digit and, where there are more, the point and the others: what `sci_text` prints before "e" (R136). -/
def sciMantissa (d : ℕ → Byte) (nk : ℕ) : List Byte := d 0 :: if 1 < nk then chrPointCode :: digitRun d 1 nk else []

theorem sciText_eq (d : ℕ → Byte) (nk : ℕ) (se : ℤ) :
    sciText d nk se =
      sciMantissa d nk ++ chrECode :: (if 0 ≤ se then chrPlusCode else chrMinusCode) :: expDigits se.natAbs := by
  simp [sciText, sciMantissa]

theorem sciMantissa_length (d : ℕ → Byte) (nk : ℕ) : (sciMantissa d nk).length = if 1 < nk then nk + 1 else 1 := by
  rw [sciMantissa, List.length_cons]
  split
  · rw [List.length_cons, digitRun_length]
    omega
  · rfl

theorem sciMantissa_digit (d : ℕ → Byte) {nk j : ℕ} (h1 : 1 ≤ j) (hj : j < nk) :
    (sciMantissa d nk)[1 + j]? = some (d j) := by
  obtain ⟨i, rfl⟩ := Nat.exists_eq_add_of_le' h1
  rw [sciMantissa, if_pos (by omega), Nat.add_comm, List.getElem?_cons_succ, List.getElem?_cons_succ,
    digitRun_getElem? d (by omega), Nat.add_comm]

/-- A place of the mantissa. -/
theorem sciText_mantissa (d : ℕ → Byte) {nk i : ℕ} {b : Byte} (se : ℤ) (h : (sciMantissa d nk)[i]? = some b) :
    (sciText d nk se)[i]? = some b := by
  rw [sciText_eq, List.getElem?_append_left (List.getElem?_eq_some_iff.mp h).1, h]

/-- A place behind the mantissa. -/
theorem sciText_exponent (d : ℕ → Byte) (nk : ℕ) (se : ℤ) (i : ℕ) :
    (sciText d nk se)[(sciMantissa d nk).length + i]? =
      (chrECode :: (if 0 ≤ se then chrPlusCode else chrMinusCode) :: expDigits se.natAbs)[i]? := by
  rw [sciText_eq, List.getElem?_append_right (by omega), Nat.add_sub_cancel_left]

theorem sciText_length (d : ℕ → Byte) (nk : ℕ) (se : ℤ) :
    (sciText d nk se).length = (sciMantissa d nk).length + 2 + (expDigits se.natAbs).length := by
  simp [sciText_eq]
  omega

end Sys2Proof.Machine

namespace Sys2Proof.Safety

open Sys2Proof.Machine
open Sys2Proof.Machine.Reference (decimal trimZeros layout)

/-- The state LAYOUT leaves: the mode, and the text in TXT from entry 0 on. -/
structure Stages (s : State) (mode : LayoutMode) (t : List Byte) : Prop where
  mode_eq : s.mode = mode
  tlen_eq : s.tlen.toNat = t.length
  txt_eq : ∀ {i : ℕ} {b : Byte}, t[i]? = some b → s.txt[i]? = some b

/-- LAYOUT stages the text of its layout, where the spec states one and TXT holds it. -/
theorem stages_ruleLayout {s : State} {mode : LayoutMode} {t : List Byte}
    (hst : textStated s.exp.toInt (s.n.toNat + s.exp.toInt) = true)
    (ht : layoutText Config.encoder s.digit s.n.toNat s.nk.toNat (s.n.toNat + s.exp.toInt) = (mode, t))
    (hlen : t.length ≤ 21) : Stages (ruleLayout s) mode t := by
  have hfit := fitU_toNat (w := 5) (v := t.length) (x := .tlen) (s := s) (by omega) (by omega)
  rw [ruleLayout_of_stated hst]
  dsimp only
  rw [ht]
  refine ⟨rfl, Int.ofNat_inj.mp hfit, fun {i b} hi => ?_⟩
  dsimp only
  rw [storeText_getElem? s.txt hlen (List.getElem?_eq_some_iff.mp hi).1, hi]

/-- A digit of the text is the entry of DIG that LAYOUT read. -/
theorem Stages.txt_digit {s u : State} {mode : LayoutMode} {t : List Byte} (h : Stages u mode t) {i j : ℕ}
    (hi : t[i]? = some (s.digit j)) (hn : s.n.toNat ≤ 9) (hj : j < s.n.toNat) :
    u.txt[i]? = s.dig[9 - s.n.toNat + j]? := by
  rw [h.txt_eq hi, some_digit_eq hn hj]

/-- Settles O28: DPP and SE fit their registers for R19's and R20's ranges, so they hold the sums themselves. -/
theorem layoutDecidesByScientificExponent : Obligations.LayoutDecidesByScientificExponent := by
  intro s h1 h9 hlo hup
  have hdpp : (ruleLayout s).dpp.toInt = s.n.toNat + s.exp.toInt := fitS_toInt (by omega) (by omega)
  have hse : (ruleLayout s).se.toInt = s.n.toNat + s.exp.toInt - 1 := fitS_toInt (by omega) (by omega)
  refine ⟨ruleLayout s, exec_layout s, hdpp, by rw [hse, hdpp], ?_, rfl, fun _ => rfl⟩
  rw [hse, hdpp]
  exact layoutText_mode s.digit s.n.toNat s.nk.toNat _

/-- Settles O29: for N <= DPP <= 21 the text staged is `int_text`. -/
theorem intTextPadsWithZeros : Obligations.IntTextPadsWithZeros := by
  intro s dpp h1 h9 hdpp hn h21
  have hlen := intText_length s.digit hn
  have hs : Stages (ruleLayout s) .fixedInt (intText s.digit s.n.toNat dpp) :=
    stages_ruleLayout (textStated_of h1 h9 (by omega) (by omega))
      (by rw [← hdpp]; exact layoutText_of_int (by omega) (by omega)) (by omega)
  exact ⟨ruleLayout s, exec_layout s, hs.mode_eq, hs.tlen_eq.trans hlen,
    fun j hj => hs.txt_digit (intText_digit _ _ hj) h9 hj, fun j hnj hj => hs.txt_eq (intText_zero _ hnj hj)⟩

/-- Settles O30: for 0 < DPP < N the text staged is `frac_text`. -/
theorem fracTextTrimsTheFraction : Obligations.FracTextTrimsTheFraction := by
  intro s dpp h9 hnk hdpp h0 hlt
  have hlen := fracText_length s.digit s.nk.toNat dpp
  have hs : Stages (ruleLayout s) .fixedFrac (fracText s.digit s.nk.toNat dpp) :=
    stages_ruleLayout (textStated_of (by omega) h9 (by omega) (by omega))
      (by rw [← hdpp]; exact layoutText_of_frac (by omega) (by omega) (by omega)) (by split at hlen <;> omega)
  refine ⟨ruleLayout s, exec_layout s, hs.mode_eq, fun j hj => hs.txt_digit (fracText_digit _ _ hj) h9 (by omega),
    fun h => ?_, fun h => ?_⟩
  · rw [if_pos h] at hlen
    exact ⟨hs.txt_eq (fracText_point _ h), hs.tlen_eq.trans hlen,
      fun j hj hjk => hs.txt_digit (fracText_fraction _ hj hjk) h9 (by omega)⟩
  · rw [if_neg (by omega)] at hlen
    exact hs.tlen_eq.trans hlen

/-- Settles O31: for -5 <= DPP <= 0 the text staged is `small_text`. -/
theorem smallTextLeadsWithZeros : Obligations.SmallTextLeadsWithZeros := by
  intro s z h9 hk1 hkn hz h5
  have hlen := smallText_length s.digit s.nk.toNat z
  have hs : Stages (ruleLayout s) .fixedSmall (smallText s.digit s.nk.toNat z) := by
    refine stages_ruleLayout (textStated_of (by omega) h9 (by omega) (by omega)) ?_ (by omega)
    rw [← hz, layoutText_of_small (by omega) (by omega) (by omega), neg_neg, Int.toNat_natCast]
  exact ⟨ruleLayout s, exec_layout s, hs.mode_eq, hs.txt_eq rfl, hs.txt_eq rfl,
    fun j hj => hs.txt_eq (smallText_zero _ _ hj),
    fun j hj => hs.txt_digit (smallText_digit _ _ hj) h9 (by omega), hs.tlen_eq.trans hlen⟩

/-- Settles O32: the text staged is `sci_text`, whose exponent stands behind the mantissa of length m. -/
theorem sciTextPrintsTheScientificExponent : Obligations.SciTextPrintsTheScientificExponent := by
  intro s h9 hk1 hkn hlo hup se hse
  have hlen := sciText_length s.digit s.nk.toNat se
  have hm := sciMantissa_length s.digit s.nk.toNat
  have hm10 : (sciMantissa s.digit s.nk.toNat).length ≤ 10 := by split at hm <;> omega
  have hexp : (expDigits se.natAbs).length = if 10 ≤ se.natAbs then 2 else 1 := by rw [expDigits]; split <;> rfl
  have hs : Stages (ruleLayout s) .sci (sciText s.digit s.nk.toNat se) :=
    stages_ruleLayout (textStated_of (by omega) h9 hlo hup) (layoutText_of_sci hse) (by split at hexp <;> omega)
  have hrest := sciText_exponent s.digit s.nk.toNat se
  refine ⟨ruleLayout s, (sciMantissa s.digit s.nk.toNat).length, exec_layout s, hs.mode_eq,
    hs.txt_digit (j := 0) (sciText_mantissa _ se rfl) h9 (by omega), hm, fun hk => ⟨?_, fun j h1 hj => ?_⟩,
    hs.txt_eq (hrest 0), hs.txt_eq (hrest 1), fun h => ?_, fun h => ?_⟩
  · exact hs.txt_eq (sciText_mantissa _ se (by rw [sciMantissa, if_pos hk]; rfl))
  · exact hs.txt_digit (sciText_mantissa _ se (sciMantissa_digit _ h1 hj)) h9 (by omega)
  · rw [expDigits, if_pos h] at hrest
    rw [if_pos h] at hexp
    exact ⟨hs.txt_eq (hrest 2), hs.txt_eq (hrest 3), by rw [hs.tlen_eq]; omega⟩
  · have hten : ¬ 10 ≤ se.natAbs := by omega
    rw [expDigits, if_neg hten] at hrest
    rw [if_neg hten] at hexp
    exact ⟨hs.txt_eq (hrest 2), by rw [hs.tlen_eq]; omega⟩

/-- Settles O33: the digits LAYOUT reads are those of SIG, so its text is the reference's. -/
theorem digitsThenLayoutStageTheLayout : Obligations.DigitsThenLayoutStageTheLayout := by
  intro s h0 h1 hlo hup
  have hn1 := decimal_length_pos h0
  have hn9 := decimal_length_le h1
  have hn := ruleDigits_n h0 h1
  have hexp : (ruleDigits s).exp = s.exp := by rw [ruleDigits_of_range h0 h1]
  have htext := layoutText_eq (exp := s.exp.toInt) (reads_ruleDigits h0 h1) h0 (by omega)
  rw [← hn, ← ruleDigits_nk h0 h1, ← hexp] at htext
  rw [← hexp] at hlo hup ⊢
  have hs := stages_ruleLayout (textStated_of (by omega) (by omega) hlo hup) Prod.mk.eta.symm
    (by rw [htext]; exact (layout_length h0 h1 hlo hup).2)
  rw [htext] at hs
  refine ⟨ruleDigits s, ruleLayout (ruleDigits s), exec_digits s, exec_layout _, hs.tlen_eq, fun i hi => ?_⟩
  rw [hs.tlen_eq] at hi
  rw [List.getElem?_eq_getElem hi]
  exact hs.txt_eq (List.getElem?_eq_getElem hi)

end Sys2Proof.Safety
end

section
/-! The text as a numeral (R138, R139): trailing zeros do not show in it, and it denotes SIG 10^EXP. -/

namespace Sys2Proof.Machine

open Sys2Proof.Machine.Reference

/-! The text by the digits and the place of the point. -/

/-- The text of a digit string with the decimal point `dpp` places from its left end (R131 to R138). -/
def numeral (ds : List Byte) (dpp : ℤ) : List Byte :=
  if dpp - 1 < -6 ∨ 20 < dpp - 1 then
    (trimZeros ds).take 1 ++ (if 1 < (trimZeros ds).length then 0x2E :: (trimZeros ds).drop 1 else [])
      ++ [0x65, if 0 ≤ dpp - 1 then 0x2B else 0x2D] ++ decimal (dpp - 1).natAbs
  else if ds.length ≤ dpp then ds ++ List.replicate (dpp.toNat - ds.length) 0x30
  else if 0 < dpp then
    ds.take dpp.toNat ++ (if dpp.toNat < (trimZeros ds).length then 0x2E :: (trimZeros ds).drop dpp.toNat else [])
  else [0x30, 0x2E] ++ List.replicate (-dpp).toNat 0x30 ++ trimZeros ds

theorem layout_eq_numeral (sig : ℕ) (exp : ℤ) : layout sig exp = numeral (decimal sig) ((decimal sig).length + exp) := rfl

/-- One more "0" at the right end of the digits is not printed, or is the "0" before the point that the layout would have
added itself. -/
theorem numeral_append_zero {ds : List Byte} (hds : 1 ≤ ds.length) (dpp : ℤ) :
    numeral (ds ++ [0x30]) dpp = numeral ds dpp := by
  have htrim : trimZeros (ds ++ [0x30]) = trimZeros ds := trimZeros_append_replicate ds 1
  have hk := trimZeros_length_le ds
  have hlen : (ds ++ [(0x30 : Byte)]).length = ds.length + 1 := by simp
  unfold numeral
  rw [htrim, hlen]
  split
  next => rfl
  next =>
    rcases lt_trichotomy (ds.length : ℤ) dpp with h | rfl | h
    · rw [if_pos (by push_cast; omega), if_pos h.le,
        show dpp.toNat - ds.length = dpp.toNat - (ds.length + 1) + 1 by omega, List.replicate_succ, List.append_assoc,
        List.singleton_append]
    · rw [if_neg (by push_cast; omega), if_pos le_rfl, if_pos (by omega)]
      simp [hk]
    · rw [if_neg (by push_cast; omega), if_neg (show ¬ (ds.length : ℤ) ≤ dpp by omega)]
      split
      next => rw [List.take_append_of_le_length (by omega)]
      next => rfl

/-- Settles O35: DPP is the same, and the digits of 10 SIG are those of SIG and one more "0". -/
theorem trailingZerosDoNotChangeTheText : Obligations.TrailingZerosDoNotChangeTheText := by
  intro sig exp h0 _ _ _
  have hdec : decimal (10 * sig) = decimal sig ++ [0x30] := decimal_pow_ten_mul 1 h0
  have hdpp : ((decimal sig ++ [(0x30 : Byte)]).length : ℤ) + (exp - 1) = (decimal sig).length + exp := by
    rw [List.length_append, List.length_singleton]
    omega
  rw [layout_eq_numeral, hdec, hdpp, numeral_append_zero (decimal_length_pos h0), layout_eq_numeral]

/-! The value of a digit string. -/

theorem digitValue_chr {d : ℕ} (h : d < 10) : digitValue (chr d) = d := by
  rw [digitValue, chr, BitVec.toNat_ofNat]
  omega

theorem digitsValue_append_singleton (ds : List Byte) (b : Byte) :
    digitsValue (ds ++ [b]) = 10 * digitsValue ds + digitValue b := by
  simp [digitsValue]

theorem digitsValue_append (as bs : List Byte) :
    digitsValue (as ++ bs) = digitsValue as * 10 ^ bs.length + digitsValue bs := by
  induction bs using List.reverseRecOn with
  | nil => simp [digitsValue]
  | append_singleton bs b ih =>
    rw [← List.append_assoc, digitsValue_append_singleton, ih, digitsValue_append_singleton, List.length_append,
      List.length_singleton, Nat.pow_succ]
    ring

theorem digitsValue_replicate_zero (k : ℕ) : digitsValue (List.replicate k 0x30) = 0 := by
  induction k with
  | zero => rfl
  | succ k ih => rw [List.replicate_succ', digitsValue_append_singleton, ih]; rfl

theorem digitsValue_decimal (v : ℕ) : digitsValue (decimal v) = v := by
  induction v using Nat.strongRecOn with
  | ind v ih =>
    rcases v.eq_zero_or_pos with rfl | h
    · rfl
    · rw [decimal_eq_append h, digitsValue_append_singleton, ih _ (by omega), digitValue_chr (by omega)]
      omega

/-- The value of a digit string with the decimal point `p` places from its left end. -/
def pointValue (ds : List Byte) (p : ℤ) : ℚ := digitsValue ds * 10 ^ (p - ds.length)

theorem pointValue_append_zeros (ds : List Byte) (k : ℕ) (p : ℤ) :
    pointValue (ds ++ List.replicate k 0x30) p = pointValue ds p := by
  have hp : p - ds.length = k + (p - (ds.length + k)) := by ring
  rw [pointValue, pointValue, digitsValue_append, digitsValue_replicate_zero, List.length_append,
    List.length_replicate, hp, zpow_add₀ (by norm_num)]
  push_cast
  rw [zpow_natCast]
  ring

theorem pointValue_zeros_append (ds : List Byte) (k : ℕ) (p : ℤ) :
    pointValue (List.replicate k 0x30 ++ ds) p = pointValue ds (p - k) := by
  rw [pointValue, pointValue, digitsValue_append, digitsValue_replicate_zero, List.length_append,
    List.length_replicate]
  push_cast
  rw [zero_mul, zero_add, sub_sub]

theorem pointValue_mul_zpow (ds : List Byte) (p e : ℤ) : pointValue ds p * 10 ^ e = pointValue ds (p + e) := by
  rw [pointValue, pointValue, mul_assoc, ← zpow_add₀ (by norm_num), sub_add_eq_add_sub]

/-- The digits of a number, with the point `exp` places behind the last. -/
theorem pointValue_decimal (v : ℕ) (exp : ℤ) :
    pointValue (decimal v) ((decimal v).length + exp) = v * (10 : ℚ) ^ exp := by
  rw [pointValue, digitsValue_decimal, add_sub_cancel_left]

/-! The value of a numeral (R65, R139). -/

/-- The string holds neither a point nor an "e", as a run of digits does not. -/
def NoMark (ds : List Byte) : Prop := ∀ b ∈ ds, b ≠ 0x2E ∧ b ≠ 0x65

theorem noMark_decimal (v : ℕ) : NoMark (decimal v) := by
  intro b hb
  obtain ⟨d, hd, rfl⟩ := List.mem_map.mp hb
  have hlt : d < 10 := Nat.digits_lt_base (by decide) (List.mem_reverse.mp hd)
  interval_cases d <;> decide

theorem noMark_zeros (k : ℕ) : NoMark (List.replicate k 0x30) := by
  intro b hb
  rw [List.eq_of_mem_replicate hb]
  decide

theorem NoMark.append {as bs : List Byte} (ha : NoMark as) (hb : NoMark bs) : NoMark (as ++ bs) :=
  List.forall_mem_append.mpr ⟨ha, hb⟩

theorem NoMark.take {ds : List Byte} (h : NoMark ds) (a : ℕ) : NoMark (ds.take a) :=
  fun b hb => h b (List.mem_of_mem_take hb)

theorem NoMark.drop {ds : List Byte} (h : NoMark ds) (a : ℕ) : NoMark (ds.drop a) :=
  fun b hb => h b (List.mem_of_mem_drop hb)

theorem fixedValue_of_noMark {ds : List Byte} (h : NoMark ds) : fixedValue ds = pointValue ds ds.length := by
  have hp : ∀ b ∈ ds, (b != 0x2E) = true := fun b hb => by simpa using (h b hb).1
  rw [fixedValue, pointValue, List.takeWhile_eq_self_iff.mpr hp, List.dropWhile_eq_nil_iff.mpr hp]
  simp

theorem fixedValue_point {int : List Byte} (h : NoMark int) (frac : List Byte) :
    fixedValue (int ++ 0x2E :: frac) = pointValue (int ++ frac) int.length := by
  have hp : ∀ b ∈ int, (b != 0x2E) = true := fun b hb => by simpa using (h b hb).1
  rw [fixedValue, pointValue, List.takeWhile_append_of_pos hp, List.dropWhile_append_of_pos hp]
  simp [div_eq_mul_inv]

theorem numeralValue_fixed {t : List Byte} (h : ∀ b ∈ t, b ≠ 0x65) : numeralValue t = fixedValue t := by
  have hp : ∀ b ∈ t, (b != 0x65) = true := fun b hb => by simpa using h b hb
  rw [numeralValue, List.takeWhile_eq_self_iff.mpr hp, List.dropWhile_eq_nil_iff.mpr hp]
  rfl

theorem numeralValue_exponent {t : List Byte} (h : ∀ b ∈ t, b ≠ 0x65) (x : List Byte) :
    numeralValue (t ++ 0x65 :: x) = fixedValue t * 10 ^ exponentValue x := by
  have hp : ∀ b ∈ t, (b != 0x65) = true := fun b hb => by simpa using h b hb
  rw [numeralValue, List.takeWhile_append_of_pos hp, List.dropWhile_append_of_pos hp]
  simp

theorem exponentValue_sign_decimal (se : ℤ) :
    exponentValue ((if 0 ≤ se then 0x2B else 0x2D) :: decimal se.natAbs) = se := by
  rw [exponentValue, List.head?_cons, List.drop_one, List.tail_cons, digitsValue_decimal]
  split_ifs with h hs hs
  · cases hs
  · omega
  · omega
  · exact absurd rfl hs

/-- "." and the digits after it, where a digit is left, have no "e". -/
theorem no_e_of_noMark {int frac : List Byte} (hi : NoMark int) (hf : NoMark frac) (P : Prop) [Decidable P] :
    ∀ b ∈ int ++ (if P then 0x2E :: frac else []), b ≠ 0x65 := by
  refine List.forall_mem_append.mpr ⟨fun b hb => (hi b hb).2, ?_⟩
  split
  · exact List.forall_mem_cons.mpr ⟨by decide, fun b hb => (hf b hb).2⟩
  · exact List.forall_mem_nil _

/-- A text with the point `a` places from the left and no trailing zero after it has the value of its digits (R134, R136). -/
theorem fixedValue_trimmed {ks : List Byte} (hks : NoMark ks) (z : ℕ) {a : ℕ} (ha : a ≤ ks.length + z) :
    fixedValue ((ks ++ List.replicate z 0x30).take a ++ (if a < ks.length then 0x2E :: ks.drop a else [])) =
      pointValue ks a := by
  split
  next h =>
    rw [List.take_append_of_le_length h.le, fixedValue_point (hks.take a), List.take_append_drop, List.length_take,
      Nat.min_eq_left h.le]
  next h =>
    have htake : (ks ++ List.replicate z 0x30).take a = ks ++ List.replicate (a - ks.length) 0x30 := by
      rw [List.take_append, List.take_of_length_le (by omega), List.take_replicate, Nat.min_eq_left (by omega)]
    rw [List.append_nil, htake, fixedValue_of_noMark (hks.append (noMark_zeros _)), pointValue_append_zeros,
      List.length_append, List.length_replicate, Nat.add_sub_cancel' (by omega)]

/-- The four texts denote their digits with the point where it was asked for: the exponent of the scientific one moves it
there, the zeros of the others hold its place. -/
theorem numeralValue_numeral {ks : List Byte} {z : ℕ} {dpp : ℤ} (hks : NoMark ks) (hpos : 1 ≤ ks.length)
    (htrim : trimZeros (ks ++ List.replicate z 0x30) = ks) :
    numeralValue (numeral (ks ++ List.replicate z 0x30) dpp) = pointValue (ks ++ List.replicate z 0x30) dpp := by
  have hds := hks.append (noMark_zeros z)
  have hlen : (ks ++ List.replicate z (0x30 : Byte)).length = ks.length + z := by simp
  unfold numeral
  rw [htrim, pointValue_append_zeros]
  split
  next =>
    have hmant := fixedValue_trimmed hks 0 (a := 1) hpos
    rw [List.replicate_zero, List.append_nil] at hmant
    rw [List.append_assoc, List.cons_append, List.singleton_append,
      numeralValue_exponent (no_e_of_noMark (hks.take 1) (hks.drop 1) _), hmant, exponentValue_sign_decimal,
      pointValue_mul_zpow]
    congr 1
    push_cast
    ring
  next =>
    split
    next h =>
      have hall := hds.append (noMark_zeros (dpp.toNat - (ks ++ List.replicate z (0x30 : Byte)).length))
      rw [numeralValue_fixed fun b hb => (hall b hb).2, fixedValue_of_noMark hall, pointValue_append_zeros,
        pointValue_append_zeros, List.length_append, List.length_replicate]
      congr 1
      omega
    next h =>
      split
      next h0 =>
        rw [numeralValue_fixed (no_e_of_noMark (hds.take _) (hks.drop _) _), fixedValue_trimmed hks z (by omega),
          Int.toNat_of_nonneg h0.le]
      next h0 =>
        have hrest := (noMark_zeros (-dpp).toNat).append hks
        have hno : ∀ b ∈ (0x30 :: 0x2E :: (List.replicate (-dpp).toNat 0x30 ++ ks) : List Byte), b ≠ 0x65 :=
          List.forall_mem_cons.mpr ⟨by decide, List.forall_mem_cons.mpr ⟨by decide, fun b hb => (hrest b hb).2⟩⟩
        have hint := fixedValue_point (noMark_zeros 1) (List.replicate (-dpp).toNat 0x30 ++ ks)
        rw [pointValue_zeros_append, pointValue_zeros_append, List.length_replicate] at hint
        refine (numeralValue_fixed hno).trans (hint.trans ?_)
        congr 1
        omega

/-- Settles O34: SIG 10^EXP is the value of SIG's digits with the point at DPP, and so of the significant ones. -/
theorem layoutDenotesTheDecimalResult : Obligations.LayoutDenotesTheDecimalResult := by
  intro sig exp h0 _ _ _
  obtain ⟨w, k, hw, -, -, hdec, htrim⟩ := exists_significant h0
  rw [layout_eq_numeral, ← pointValue_decimal]
  rw [hdec] at htrim ⊢
  exact numeralValue_numeral (noMark_decimal w) (decimal_length_pos hw) htrim

end Sys2Proof.Machine
end

section
/-! What ends a conversion without a text, what FAULT keeps, and what can stop a step (R160, R164, R165, R186). -/

namespace Sys2Proof.Safety

open Sys2Proof.Machine

variable {s : State} {w : Word}

/-! An infinity or NaN (R160). -/

theorem ruleDecode_of_infnan (hs : s.raw = w) (hw : expField w = 255) :
    ruleDecode s = { s with sign := signField w, ef := 255, mf := mantField w, len := 0, phase := .done } := by
  subst hs
  obtain ⟨-, e⟩ | ⟨hne, -⟩ := ruleDecode_cases s
  · rw [e, hw]
  · exact absurd hw hne

theorem requestStep_raw_of_ready (w : Word) (hr : s.ready = true) : (requestStep w s).raw = w := by
  rw [requestStep_of_ready w hr]

/-- The step after the START step is DECODE's. -/
theorem quietStep_requestStep (w : Word) (hr : s.ready = true) :
    quietStep (requestStep w s) = ruleDecode (beginStep (Ports.quiet (requestStep w s)) (requestStep w s)) := by
  have hp : (requestStep w s).phase = .decode := by rw [requestStep_of_ready w hr]
  exact Host.Outcome.next.inj (next_quietStep hp)

/-- The conversion of an unsupported operand is its START step and DECODE's step (R191). -/
theorem convertWord_of_infnan (hw : expField w = 255) (hr : s.ready = true) :
    convertWord w s =
      { beginStep (Ports.quiet (requestStep w s)) (requestStep w s) with
        sign := signField w, ef := 255, mf := mantField w, len := 0, phase := .done } := by
  obtain ⟨hrun, -⟩ := convertWord_steps w hr
  rw [steps_of_infnan ((classOf_eq_infnan_iff w).mpr hw)] at hrun
  calc convertWord w s
    _ = quietStep (requestStep w s) := hrun
    _ = ruleDecode (beginStep (Ports.quiet (requestStep w s)) (requestStep w s)) := quietStep_requestStep w hr
    _ = _ := ruleDecode_of_infnan ((beginStep_raw _ _).trans (requestStep_raw_of_ready w hr)) hw

/-- Settles O38: the START step clears POS and LEN, and DECODE ends the conversion before any phase that writes OUT. -/
theorem convertInfnanIsUnsupported : Obligations.ConvertInfnanIsUnsupported := by
  intro sign mf s hr
  refine ⟨convertWord (operandWord sign 255 mf) s, rfl, ?_⟩
  rw [convertWord_of_infnan (expField_operandWord sign 255 mf) hr, signField_operandWord, mantField_operandWord,
    requestStep_of_ready _ hr]
  exact ⟨rfl, rfl, rfl, rfl, rfl, rfl, rfl, fun _ => rfl, rfl⟩

/-! FAULT (R164). -/

/-- In FAULT a step without `rst` is the frame of a step and nothing more. -/
theorem blockStep_of_fault {p : Ports} (hs : s.phase = .fault) (hp : p.rst = false) :
    blockStep p s = .next (beginStep p s) := by
  rw [blockStep_of_rst_false s hp, hs]
  exact exec_fault (beginStep p s)

/-- Settles O47: FAULT's rule keeps the state, so a step changes the ports and its number alone. -/
theorem faultIsAbsorbing : Obligations.FaultIsAbsorbing := by
  intro s p hs hp
  have hphase : (beginStep p s).phase = .fault := (beginStep_phase p s).trans hs
  refine ⟨exec_fault s, beginStep p s, blockStep_of_fault hs hp, ?_, ?_, ?_, rfl, ?_, fun _ => rfl⟩
  · rw [State.ready, hphase]; rfl
  · rw [State.busy, hphase]; rfl
  · rw [State.done, hphase]; rfl
  · exact congrArg (fun r => { beginStep p s with rst := r }) hp

/-! The host's write of OUT (R186). -/

theorem step_of_write {off : BitVec 5} {b : Byte} {rest : List HostAction} (h : s.host = .write off b :: rest) :
    step s = hostWrite off b { s with host := rest } := by
  simp only [step, h]

/-- A host write is a race while the block is busy, and else a write of OUT alone. -/
theorem hostWrite_cases (off : BitVec 5) (b : Byte) (s : State) :
    (s.busy = true ∧ hostWrite off b s = .fault (.bufferRace off)) ∨
      (s.busy = false ∧ hostWrite off b s = .next { s with out := s.out.write off.toNat b }) := by
  cases hb : s.busy
  · exact .inr ⟨rfl, if_neg (by simp [hb])⟩
  · exact .inl ⟨rfl, if_pos hb⟩

/-- Settles O56: a step of the block and a CONVERT always answer a next state, and a host write does unless it races. -/
theorem onlyTheHostsRaceStopsTheMachine : Obligations.OnlyTheHostsRaceStopsTheMachine := by
  intro s
  cases hh : s.host with
  | nil => exact .inl ⟨_, (step_of_no_action hh).trans (blockStep_eq _ _)⟩
  | cons action rest =>
    cases action with
    | drive p => exact .inl ⟨_, (step_of_drive hh).trans (blockStep_eq _ _)⟩
    | convert w => exact .inl ⟨_, (step_of_convert hh).trans (exec_decodeOperand_eq _ _)⟩
    | write off b =>
      obtain ⟨hb, e⟩ | ⟨-, e⟩ := hostWrite_cases off b { s with host := rest }
      · exact .inr ⟨off, b, rest, rfl, hb, (step_of_write hh).trans e⟩
      · exact .inl ⟨_, (step_of_write hh).trans e⟩

end Sys2Proof.Safety
end

section
/-! Busy for the steps of R191's table: the steps left count down to DONE, and an integer of the fast path has a body of 1
to 8 digits (R86, R133, R191). -/

namespace Sys2Proof.Safety

open Sys2Proof.Machine
open Sys2Proof.Machine.Reference (classOf body decimal layout operandC operandFast decimalResult steps)

variable {s : State} {w : Word}

/-! The digits of an integer of the fast path. -/

/-- An integer of at most 21 digits is printed as its digits (R133). -/
theorem layout_exp_zero {v : ℕ} (h : (decimal v).length ≤ 21) : layout v 0 = decimal v := by
  have hfixed : ¬ ((decimal v).length + (0 : ℤ) - 1 < -6 ∨ 20 < (decimal v).length + (0 : ℤ) - 1) := by omega
  rw [layout, if_neg hfixed, if_pos (by omega)]
  simp

/-- The class of the fast path is neither zero nor unsupported, and `fast` holds of it (R62). -/
theorem fast_of_classOf (h : classOf w = .normalFastint) :
    classOf w ≠ .zero ∧ classOf w ≠ .infnan ∧ operandFast w = true := by
  have hz : classOf w ≠ .zero := by rw [h]; decide
  have hi : classOf w ≠ .infnan := by rw [h]; decide
  obtain ⟨hf, -⟩ | ⟨-, hc⟩ := classOf_of_operand hz hi
  · exact ⟨hz, hi, hf⟩
  · rw [h] at hc
    exact absurd hc (by decide)

/-- C is below 2^24, so the integer C >> (-Q) has at most 8 digits. -/
theorem body_length_of_fast (h : classOf w = .normalFastint) : (body w).length ≤ 8 := by
  obtain ⟨hz, hi, hf⟩ := fast_of_classOf h
  have hC := (engineOperand_of_classOf hz hi).c_lt
  have hle := Nat.div_le_self (operandC w) (2 ^ (150 - (expField w).toNat))
  have hdigits : (decimal (operandC w / 2 ^ (150 - (expField w).toNat))).length ≤ 8 := decimal_length_le (by omega)
  have hres : decimalResult w = (operandC w / 2 ^ (150 - (expField w).toNat), 0) := if_pos hf
  rw [body_of_not_zero hz, hres, layout_exp_zero (hdigits.trans (by decide))]
  exact hdigits

theorem steps_of_fast_range (h : classOf w = .normalFastint) : 8 ≤ steps w ∧ steps w ≤ 15 := by
  obtain ⟨hz, hi, hf⟩ := fast_of_classOf h
  have hmin := body_length hi
  have hmax := body_length_of_fast h
  rw [steps_of_fast hz hi hf]
  omega

/-! Busy while steps are left. -/

theorem busy_of_stepsLeft (h : 0 < stepsLeft s) : s.busy = true := by
  by_contra hb
  have := stepsLeft_of_not_busy (by simpa using hb)
  omega

theorem busy_quietSteps (m : ℕ) (h : PhaseInv s) (hm : m < stepsLeft s) : (quietSteps m s).busy = true := by
  induction m generalizing s with
  | zero => exact busy_of_stepsLeft hm
  | succ m ih =>
    have hleft := stepsLeft_quietStep h (busy_of_stepsLeft (by omega))
    exact ih (phaseInv_quietStep h) (by omega)

/-- Settles O43: the START step leaves all steps of the table but itself, each quiet step while the block is busy is one of
them, and after the last the conversion is done. -/
theorem conversionTakesItsSteps : Obligations.ConversionTakesItsSteps := by
  intro w s hr
  obtain ⟨-, hmin, hmax⟩ := steps_range w
  obtain ⟨hrun, hdone⟩ := convertWord_steps w hr
  refine ⟨hmin, hmax, steps_of_infnan, steps_of_zero, steps_of_fast_range, fun m hm => ?_, ?_⟩
  · have hleft := stepsLeft_requestStep w hr
    exact busy_quietSteps m (converting_requestStep w hr).inv (by omega)
  · rw [← hrun]
    exact (done_iff _).mpr hdone

end Sys2Proof.Safety
end

section
/-! A step with `rst` = 1, and the host's write of its buffer (R180, R182, R186). -/

namespace Sys2Proof.Safety

open Sys2Proof.Machine

theorem blockStep_of_rst {p : Ports} (s : State) (hp : p.rst = true) :
    blockStep p s = .next (resetStep (beginStep p s)) := by
  rw [blockStep_eq, if_pos hp]

/-- Reset leaves `ready` as the one status output that is 1 (R180). -/
theorem resetStep_status (s : State) : (resetStep s).status = 1 :=
  BitVec.eq_of_toNat_eq (status_toNat (resetStep s))

/-- Settles O48: the step is reset's, whose values do not depend on PHASE or `start`; `wr_en` is cleared at its begin. -/
theorem resetOverridesEveryPhase : Obligations.ResetOverridesEveryPhase := by
  intro s p hp
  have hphase := resetStep_phase (beginStep p s)
  refine ⟨resetStep (beginStep p s), blockStep_of_rst s hp, hphase, resetStep_fault _, resetStep_cause _, resetStep_len _,
    resetStep_pos _, resetStep_wrEn _, (ready_iff _).mpr (.inl hphase), ?_, ?_, resetStep_status _, resetStep_host _,
    fun _ => rfl⟩
  · rw [State.busy, hphase]; rfl
  · rw [State.done, hphase]; rfl

/-- Settles O55: the write is the host's whole action, and `busy` alone decides between the race and the byte stored. -/
theorem hostWritesOnlyWhileNotBusy : Obligations.HostWritesOnlyWhileNotBusy := by
  intro s off b rest hh
  rw [step_of_write hh]
  obtain ⟨hb, e⟩ | ⟨hb, e⟩ := hostWrite_cases off b { s with host := rest }
  · exact ⟨fun _ => e, fun hnb => absurd (hb.symm.trans hnb) (by decide)⟩
  · exact ⟨fun hbusy => absurd (hbusy.symm.trans hb) (by decide), fun _ =>
      ⟨_, e, read?_write_same s.out _ b, fun _ ha => read?_write_other s.out b ha, rfl⟩⟩

end Sys2Proof.Safety
end
